-- ==== Sys2Proof/Word.lean ====
section
/-! DEFINITION. The word types of NCB: bytes, 16-bit values, command and result words, 7-bit radio register addresses. -/

namespace Sys2Proof

/-- One byte: every memory access and every SPI data item is one (R60). -/
abbrev Byte := BitVec 8

/-- A 16-bit value: the `arg` field of a command word and the value field of a result word (R90, R96). -/
abbrev Half := BitVec 16

/-- A 24-bit word: `cmd[23:0]` of R90 or `res[23:0]` of R96. -/
abbrev Word := BitVec 24

/-- A radio register address, 0x00 to 0x7F (R67, R93). -/
abbrev RegAddr := BitVec 7

/-- A configuration list: (address, value) pairs in the order they are written (R103). -/
abbrev ConfigList := List (RegAddr × Byte)

end Sys2Proof
end

