-- ==== Sys2Proof/Machine/Names.lean ====
section
/-! DEFINITION. The enumerators of the spec with their numeric codes, and the events of the output trace. -/

namespace Sys2Proof.Machine

/-- The two ring-buffer instances (R21, R23, decision D6): `rb[0]` and `rb[1]`. -/
inductive RingId where
  | rb0
  | rb1
deriving DecidableEq, Repr

/-- The address spaces that hold bytes NCB can change (R40). -/
inductive Space where
  | rb0
  | rb1
  | msg
  | xfer
deriving DecidableEq, Repr

/-- The two spaces Main reads and writes by byte (R40, R95). -/
inductive HostSpace where
  | msg
  | xfer
deriving DecidableEq, Repr

/-- Status names of the result word (R97). -/
inductive Status where
  | ok
  | full
  | empty
  | porTimeout
  | identityMismatch
  | payloadTooLarge
  | invalidCharacter
  | transportError
  | notImplemented
  | illegalCommand
  | illegalOperand
deriving DecidableEq, Repr

/-- Status codes (R97). -/
def Status.code : Status → Byte
  | .ok => 0x00#8
  | .full => 0x01#8
  | .empty => 0x02#8
  | .porTimeout => 0x03#8
  | .identityMismatch => 0x04#8
  | .payloadTooLarge => 0x05#8
  | .invalidCharacter => 0x06#8
  | .transportError => 0x07#8
  | .notImplemented => 0x08#8
  | .illegalCommand => 0x09#8
  | .illegalOperand => 0x0A#8

/-- The eleven operating modes of the radio driver (R33). -/
inductive RadioState where
  | shutdown
  | idle
  | standby
  | sleep
  | sensor
  | ready
  | tune
  | xmitDirect
  | xmitPacket
  | recvDirect
  | recvPacket
deriving DecidableEq, Repr

/-- RadioState codes, held in 4 bits (R100). -/
def RadioState.code : RadioState → BitVec 4
  | .shutdown => 0#4
  | .idle => 1#4
  | .standby => 2#4
  | .sleep => 3#4
  | .sensor => 4#4
  | .ready => 5#4
  | .tune => 6#4
  | .xmitDirect => 7#4
  | .xmitPacket => 8#4
  | .recvDirect => 9#4
  | .recvPacket => 10#4

/-- The state an operand byte names; codes 11 to 255 name none (R100, R172). -/
def RadioState.ofByte (b : Byte) : Option RadioState :=
  match b with
  | 0#8 => some .shutdown
  | 1#8 => some .idle
  | 2#8 => some .standby
  | 3#8 => some .sleep
  | 4#8 => some .sensor
  | 5#8 => some .ready
  | 6#8 => some .tune
  | 7#8 => some .xmitDirect
  | 8#8 => some .xmitPacket
  | 9#8 => some .recvDirect
  | 10#8 => some .recvPacket
  | _ => none

/-- The transmit and receive states, which step 1 of `SetState` leaves by dropping the enables (R171, R173). -/
def RadioState.isTxRx : RadioState → Bool
  | .xmitDirect | .xmitPacket | .recvDirect | .recvPacket => true
  | .shutdown | .idle | .standby | .sleep | .sensor | .ready | .tune => false

/-- The four targets `SetState` has a transition for (R171, R172). -/
inductive Target where
  | ready
  | xmitDirect
  | xmitPacket
  | recvPacket
deriving DecidableEq, Repr

/-- The state a transition to a target ends in (R171 step 5). -/
def Target.state : Target → RadioState
  | .ready => .ready
  | .xmitDirect => .xmitDirect
  | .xmitPacket => .xmitPacket
  | .recvPacket => .recvPacket

/-- The target a state is, if `SetState` has a transition for it; the other seven states are refused
(R171, R178, R179). -/
def RadioState.target : RadioState → Option Target
  | .ready => some .ready
  | .xmitDirect => some .xmitDirect
  | .xmitPacket => some .xmitPacket
  | .recvPacket => some .recvPacket
  | .shutdown | .idle | .standby | .sleep | .sensor | .tune | .recvDirect => none

/-- The per-tick Morse output (R101). -/
inductive KeyState where
  | off
  | on
  | done
deriving DecidableEq, Repr

/-- KeyState codes (R101). -/
def KeyState.code : KeyState → Byte
  | .off => 0#8
  | .on => 1#8
  | .done => 2#8

/-- The KeyState a symbol byte of `rb[0]` names, if any (R101, R297). -/
def KeyState.ofByte (b : Byte) : Option KeyState :=
  match b with
  | 0#8 => some .off
  | 1#8 => some .on
  | 2#8 => some .done
  | _ => none

/-- The eight orchestrator modes (R36, R251). -/
inductive Mode where
  | off
  | tone
  | morseDirect
  | pnDirect
  | queueDirect
  | morsePacket
  | pnPacket
  | packet
deriving DecidableEq, Repr

/-- Mode codes, held in 3 bits (R36, R102). -/
def Mode.code : Mode → BitVec 3
  | .off => 0#3
  | .tone => 1#3
  | .morseDirect => 2#3
  | .pnDirect => 3#3
  | .queueDirect => 4#3
  | .morsePacket => 5#3
  | .pnPacket => 6#3
  | .packet => 7#3

/-- The mode a `BEACON_START` operand names; 0 and values above 7 name none (R102, R252). -/
def Mode.ofOperand (m : Byte) : Option Mode :=
  match m with
  | 1#8 => some .tone
  | 2#8 => some .morseDirect
  | 3#8 => some .pnDirect
  | 4#8 => some .queueDirect
  | 5#8 => some .morsePacket
  | 6#8 => some .pnPacket
  | 7#8 => some .packet
  | _ => none

/-- Modes for which `BEACON_START` sets the radio to XmitDirect (R251, R252). -/
def Mode.setsXmitDirect : Mode → Bool
  | .tone | .morseDirect | .pnDirect | .queueDirect => true
  | .off | .morsePacket | .pnPacket | .packet => false

/-- Modes with a tick source on channel A (R251, R252). -/
def Mode.ticksOnA : Mode → Bool
  | .morseDirect | .pnDirect | .queueDirect | .morsePacket | .pnPacket => true
  | .off | .tone | .packet => false

/-- Modes whose key sink is the `DATA` pin (R251, R298). -/
def Mode.keysPin : Mode → Bool
  | .morseDirect | .pnDirect | .queueDirect => true
  | .off | .tone | .morsePacket | .pnPacket | .packet => false

/-- Modes whose key sink is the request queue `rb[1]` (R251, R298). -/
def Mode.keysQueue : Mode → Bool
  | .morsePacket | .pnPacket => true
  | .off | .tone | .morseDirect | .pnDirect | .queueDirect | .packet => false

/-- The four interrupt sources (R290). -/
inductive Source where
  | cmpA
  | cmpB
  | nirq
  | txclk
deriving DecidableEq, Repr

/-- The bit of a source in `beacon.ie` and `beacon.ip` (R36, R290). -/
def Source.bit : Source → Nat
  | .cmpA => 0
  | .cmpB => 1
  | .nirq => 2
  | .txclk => 3

/-- Direction of an SPI transaction (R13). -/
inductive Dir where
  | rd
  | wr
deriving DecidableEq, Repr

/-- Output pins NCB drives by `PinWrite`: the direct-mode data line (R15, R317). -/
inductive Pin where
  | data
deriving DecidableEq, Repr

/-- Named durations that appear in `Delay` events (R15, R350). -/
inductive DelayName where
  | resetDelay
deriving DecidableEq, Repr

/-- The two compare channels of the timer (R315). -/
inductive Channel where
  | a
  | b
deriving DecidableEq, Repr

/-- Events of the output trace (R16). -/
inductive TraceEvent where
  /-- One SPI transaction: direction, address, bytes sent after the address byte, bytes received. -/
  | spi (dir : Dir) (addr : RegAddr) (sent received : List Byte)
  /-- An output pin driven to a level. -/
  | pin (p : Pin) (level : Bool)
  /-- A wait for a named duration. -/
  | delay (d : DelayName)
  /-- A compare register written. -/
  | ccr (ch : Channel) (value : Nat)
  /-- A command finished with a status and a value. -/
  | result (status : Status) (value : Half)
  /-- A handler entered. -/
  | irq (x : Source)
deriving DecidableEq, Repr

/-- The policy for an unmapped message character (R8, R212). -/
inductive UnmappedPolicy where
  | error
  | wordSpace
deriving DecidableEq, Repr

/-- How many steps `BEACON_SERVICE` is: one whole-command step, with handlers held off from its first action
to its `Result` (R69, R70, and the ruling D30), which is what every block the model constructs has; or the
three micro-steps of `RB_GET 1` and one step for the `SetState`, as R260 words it. Log 10. -/
inductive ServiceReading where
  | oneStep
  | microSteps
deriving DecidableEq, Repr

/-- One entry of MORSEROM: the ASCII byte it answers for and the 9 bits `(ws, code)` (R106). -/
structure MorseEntry where
  ascii : Byte
  ws : Bool
  code : Byte
deriving DecidableEq, Repr

end Sys2Proof.Machine
end

