-- ==== Sys2Proof/Config.lean ====
section
/-! DEFINITION. What an implementation of NCB fixes: the parameter record of R8, the constants fixed by the spec, and the free values the spec leaves open. -/

namespace Sys2Proof

/-- Number of ring-buffer instances (R8, decision D6). -/
def Config.rbCount : Nat := 2

/-- Radio FIFO size in bytes (R8). -/
def Config.fifoCapacity : Nat := 64

/-- Transfer buffer size in bytes (R8, decision D33). -/
def Config.xferSize : Nat := 64

/-- Number of configuration profiles (R8, R103). -/
def Config.cfgCount : Nat := 3

end Sys2Proof

namespace Sys2Proof.Machine

/-- The radio register addresses, bit masks and identity constants NCB uses, as parameters (R161). -/
structure RadioMap where
  regDeviceType : RegAddr
  regDeviceVersion : RegAddr
  regIntStatus1 : RegAddr
  regIntStatus2 : RegAddr
  regIntEnable1 : RegAddr
  regIntEnable2 : RegAddr
  regOpmode1 : RegAddr
  regOpmode2 : RegAddr
  regPktLen : RegAddr
  regFifo : RegAddr
  bitSwres : Byte
  bitTxon : Byte
  bitRxon : Byte
  bitXton : Byte
  bitFfclrrx : Byte
  bitFfclrtx : Byte
  bitPksent : Byte
  bitPor : Byte
  idDeviceType : Byte
  idDeviceVersion : Byte
deriving DecidableEq, Repr

/-- The parameters of NCB (R8): "an argument of the model". Quantities whose width is itself a
parameter are natural numbers, read with the modular operations of R10. -/
structure Params where
  /-- `PN_N`, the LFSR register length. -/
  pnN : Nat
  /-- `PN_GPOLY`, the feedback polynomial. -/
  pnGpoly : Nat
  /-- `PN_PERIOD_TARGET`, full periods after which the generator stops. -/
  pnPeriodTarget : Half
  /-- `RB_W`, bit width of head and tail. -/
  rbW : Nat
  /-- `RB_CAP[0]`. -/
  rbCap0 : Nat
  /-- `RB_CAP[1]`. -/
  rbCap1 : Nat
  /-- The radio register table of R161. -/
  radio : RadioMap
  /-- `OPMODE2_BASE`. -/
  opmode2Base : Byte
  /-- `CFG_PROFILE[0]`, the defaults (R103). -/
  profile0 : ConfigList
  /-- `CFG_PROFILE[1]`, the slow-packet profile (R103). -/
  profile1 : ConfigList
  /-- `CFG_PROFILE[2]`, the direct-mode tone profile (R103). -/
  profile2 : ConfigList
  /-- `CFG_XMIT_DIRECT`. -/
  xmitDirectList : ConfigList
  /-- `CFG_XMIT_PACKET`. -/
  xmitPacketList : ConfigList
  /-- `MORSE_TABLE`, the contents of MORSEROM. -/
  morseTable : List MorseEntry
  /-- `MORSE_UNMAPPED`. -/
  morseUnmapped : UnmappedPolicy
  /-- `MSG_SIZE`. -/
  msgSize : Nat
  /-- `TIMER_W`, width of the timer and its compare registers. -/
  timerW : Nat
  /-- `TICK_PERIOD`. -/
  tickPeriod : Nat
  /-- `UNIT_PERIOD`. -/
  unitPeriod : Nat
  /-- `TONE_DIV`. -/
  toneDiv : Nat
  /-- `IRQ_ORDER`, the order in which deliverable sources are served. -/
  irqOrder : List Source
  /-- How many steps `BEACON_SERVICE` is; no parameter of R8. Decision D30 rules one, which
  `Params.constructible` asks for (R69, R70, R260; log 10). -/
  serviceReading : ServiceReading
deriving DecidableEq, Repr

end Sys2Proof.Machine

namespace Sys2Proof

open Sys2Proof.Machine

/-! ## Free values

Each is opaque and has no body: no proof can see it, and a claim holds whatever it is. -/

/-- `TICK_PERIOD` of the block that comes out of reset: the spec gives no value (R8, U26). Log 3. -/
opaque Config.tickPeriod : Nat

/-- `UNIT_PERIOD` of the block that comes out of reset: the spec gives no value (R8, U26). Log 3. -/
opaque Config.unitPeriod : Nat

/-- `TONE_DIV` of the block that comes out of reset, less one, so that it is at least 1 (R8). Log 3. -/
opaque Config.toneDivLessOne : Nat

/-- Contents of `CFG_PROFILE[k]` of the block that comes out of reset, before D14's condition is imposed
on them (R103, U25). Log 3. -/
opaque Config.profileEntries : Nat → ConfigList

/-- Contents of `CFG_XMIT_DIRECT` of the block that comes out of reset, before R177's condition is
imposed on them (U25). Log 3. -/
opaque Config.xmitDirectEntries : ConfigList

/-- Contents of `CFG_XMIT_PACKET` of the block that comes out of reset, before R177's condition is
imposed on them (U25). Log 3. -/
opaque Config.xmitPacketEntries : ConfigList

/-- The value field of a result whose count does not fit its 16 bits, by the count: the spec states no
value there (R96, R126, R169). Log 25. -/
opaque Config.wideCount : Nat → BitVec 16

/-- What a byte that nothing has written reads as, by the number of block resets so far, the space and
the index: "an arbitrary but fixed byte" (R332, U18). Log 4. -/
opaque Config.unwrittenByte : Nat → Space → Nat → Byte

/-- The radio's oracle for a byte no scripted answer gives: by the number of block resets, the trace so
far, the register address and the place in the transaction (R19, R145, U14). Log 5. -/
opaque Config.radioByte : Nat → List TraceEvent → RegAddr → Nat → Byte

/-- The value of the free-running counter that `TimerNow()` reads when no scripted value is left: by
the number of block resets and the trace so far (R252, U17). Log 7. -/
opaque Config.timerNow : Nat → List TraceEvent → Nat

end Sys2Proof
end

