-- ==== Sys2Proof/Syntax.lean ====
section
/-! DEFINITION. The 23 commands of the opcode table, one constructor per row, with their operands. -/

namespace Sys2Proof

/-- A command (R90, R94). Operands are unsigned fields of the command word at their exact width (R92,
R93), so every term is well-formed; range checks belong to each command's own rule. -/
inductive Instr where
  /-- RB_PUT i, b (R122). -/
  | rbPut (i b : Byte)
  /-- RB_GET i (R124). -/
  | rbGet (i : Byte)
  /-- RB_LEN i (R126). -/
  | rbLen (i : Byte)
  /-- RB_PEEK i, n (R128). -/
  | rbPeek (i n : Byte)
  /-- RB_ISFULL i (R129). -/
  | rbIsFull (i : Byte)
  /-- RB_ISEMPTY i (R130). -/
  | rbIsEmpty (i : Byte)
  /-- REG_READ addr (R148). -/
  | regRead (addr : RegAddr)
  /-- REG_WRITE addr, v (R149). -/
  | regWrite (addr : RegAddr) (v : Byte)
  /-- REG_BURST_READ addr, n (R150). -/
  | regBurstRead (addr : RegAddr) (n : Byte)
  /-- REG_BURST_WRITE addr, n (R151). -/
  | regBurstWrite (addr : RegAddr) (n : Byte)
  /-- RADIO_RESET (R164). -/
  | radioReset
  /-- RADIO_CHECK_ID (R167). -/
  | radioCheckId
  /-- RADIO_APPLY_CONFIG k (R169). -/
  | radioApplyConfig (k : Byte)
  /-- RADIO_SET_STATE target (R171). -/
  | radioSetState (target : Byte)
  /-- RADIO_LOAD_PACKET n (R182). -/
  | radioLoadPacket (n : Byte)
  /-- MORSE_START len (R203). -/
  | morseStart (len : Half)
  /-- MORSE_TICK (R205). -/
  | morseTick
  /-- PN_INIT seed (R235). -/
  | pnInit (seed : Half)
  /-- PN_TICK (R237). -/
  | pnTick
  /-- BEACON_START m (R252). -/
  | beaconStart (m : Byte)
  /-- BEACON_STOP (R258). -/
  | beaconStop
  /-- BEACON_SERVICE (R260). -/
  | beaconService
  /-- BEACON_STATUS sel (R262). -/
  | beaconStatus (sel : Byte)
deriving DecidableEq, Repr

end Sys2Proof
end

