-- ==== Sys2Proof/WellFormed.lean ====
section
/-! DEFINITION. Well-formedness of command words (the seven formats of R91) and of configurations (the conditions R8, R22, R25, R177, R230, U5, D14 and D30 put on parameters). -/

namespace Sys2Proof

/-- The seven argument formats (R91). -/
inductive Format where
  | n
  | b
  | i
  | ib
  | a
  | av
  | h
deriving DecidableEq, Repr

/-- The argument bits a format does not use, which must be 0 (R91, R93). -/
def Format.unusedBits : Format → Word
  | .n => 0x00FFFF#24
  | .b => 0x00FF00#24
  | .i => 0x0000FF#24
  | .ib => 0x000000#24
  | .a => 0x0080FF#24
  | .av => 0x008000#24
  | .h => 0x000000#24

/-- The format of each listed opcode; every other opcode is illegal (R94). -/
def formatOf (op : Byte) : Option Format :=
  match op with
  | 0x01#8 => some .ib
  | 0x02#8 => some .i
  | 0x03#8 => some .i
  | 0x04#8 => some .ib
  | 0x05#8 => some .i
  | 0x06#8 => some .i
  | 0x10#8 => some .a
  | 0x11#8 => some .av
  | 0x12#8 => some .av
  | 0x13#8 => some .av
  | 0x20#8 => some .n
  | 0x21#8 => some .n
  | 0x22#8 => some .b
  | 0x23#8 => some .b
  | 0x24#8 => some .b
  | 0x30#8 => some .h
  | 0x31#8 => some .n
  | 0x40#8 => some .h
  | 0x41#8 => some .n
  | 0x50#8 => some .b
  | 0x51#8 => some .n
  | 0x52#8 => some .n
  | 0x53#8 => some .b
  | _ => none

/-- A command word is well-formed when its opcode is listed and every bit its format does not use is 0
(R91, R112). -/
def wordWellFormed (w : Word) : Bool :=
  match formatOf (w.extractLsb' 16 8) with
  | some f => w &&& f.unusedBits == 0#24
  | none => false

end Sys2Proof

namespace Sys2Proof.Machine

/-- `PN_N` is one of the eight widths (R230). -/
def Params.pnNLegal (p : Params) : Bool := [3, 4, 5, 6, 7, 8, 10, 12].contains p.pnN

/-- A power of two. -/
def isPowerOfTwo (c : Nat) : Bool := c != 0 && c &&& (c - 1) == 0

/-- `RB_CAP[i]` is a power of two and at most `2^(RB_W - 1)` (R25). -/
def capLegal (w c : Nat) : Bool := isPowerOfTwo c && decide (c ≤ 2 ^ (w - 1))

/-- `RB_W` is at least 1, so that `2^(RB_W - 1)` is the bound of R25 (log 13). -/
def Params.rbWLegal (p : Params) : Bool := decide (1 ≤ p.rbW)

/-- A configuration list names neither operating-mode register (R177, D14). -/
def namesNoOpmode (m : RadioMap) (l : ConfigList) : Bool :=
  l.all fun e => e.1 != m.regOpmode1 && e.1 != m.regOpmode2

/-- MORSEROM has 54 entries for distinct characters, and no letter code is an exhausted value (R104,
R106, R110, U5). -/
def morseTableLegal (t : List MorseEntry) : Bool :=
  t.length == 54 && decide ((t.map (·.ascii)).Nodup)
    && t.all fun e => e.ws || (e.code != 0x00#8 && e.code != 0xFF#8)

/-- `IRQ_ORDER` is a permutation of the four sources (R8). -/
def irqOrderLegal (l : List Source) : Bool :=
  l.length == 4 && [Source.cmpA, .cmpB, .nirq, .txclk].all fun x => l.contains x

/-- A configuration a running block can have (R8, R22, R25, R177, R230, U5, U12). A profile may name the
operating-mode registers: NCB does not prevent it (R170, R343; log 14). -/
def Params.legal (p : Params) : Bool :=
  p.pnNLegal && p.pnPeriodTarget != 0#16 && p.rbWLegal
    && capLegal p.rbW p.rbCap0 && capLegal p.rbW p.rbCap1
    && namesNoOpmode p.radio p.xmitDirectList && namesNoOpmode p.radio p.xmitPacketList
    && morseTableLegal p.morseTable && decide (p.msgSize ≤ 65535)
    && decide (1 ≤ p.toneDiv) && irqOrderLegal p.irqOrder

/-- A configuration the block can be built with: a legal one whose profiles, too, name neither
operating-mode register, as decision D14 rules (R8, R103; log 14), and in which BEACON_SERVICE is one step,
as decision D30 rules (R69, R70; log 10). The model refuses to construct any other. -/
def Params.constructible (p : Params) : Bool :=
  p.legal && namesNoOpmode p.radio p.profile0 && namesNoOpmode p.radio p.profile1
    && namesNoOpmode p.radio p.profile2 && decide (p.serviceReading = .oneStep)

end Sys2Proof.Machine
end

