-- ==== Sys2Proof/Machine/Defaults.lean ====
section
/-! DEFINITION. The configuration NCB has when it comes out of reset: the default of every parameter the spec gives one, a free value for the others (R8; logs 2 and 3). -/

namespace Sys2Proof.Machine

/-- The Si4432-family register table (R161). -/
def defaultRadioMap : RadioMap where
  regDeviceType := 0x00#7
  regDeviceVersion := 0x01#7
  regIntStatus1 := 0x03#7
  regIntStatus2 := 0x04#7
  regIntEnable1 := 0x05#7
  regIntEnable2 := 0x06#7
  regOpmode1 := 0x07#7
  regOpmode2 := 0x08#7
  regPktLen := 0x3E#7
  regFifo := 0x7F#7
  bitSwres := 0x80#8
  bitTxon := 0x08#8
  bitRxon := 0x04#8
  bitXton := 0x01#8
  bitFfclrrx := 0x02#8
  bitFfclrtx := 0x01#8
  bitPksent := 0x04#8
  bitPor := 0x01#8
  idDeviceType := 0x08#8
  idDeviceVersion := 0x06#8

/-- The default feedback polynomial of each register length (R232). -/
def defaultGpoly (n : Nat) : Nat :=
  match n with
  | 3 => 0x00B
  | 4 => 0x013
  | 5 => 0x025
  | 6 => 0x043
  | 7 => 0x083
  | 8 => 0x11D
  | 10 => 0x409
  | 12 => 0x1053
  | _ => 0

/-- The 54 entries of `MORSE_TABLE` (R110). -/
def defaultMorseTable : List MorseEntry :=
  [ ⟨0x20#8, true, 0x00#8⟩, ⟨0x21#8, false, 0xAC#8⟩, ⟨0x22#8, false, 0x4B#8⟩,
    ⟨0x26#8, false, 0x47#8⟩, ⟨0x27#8, false, 0x7B#8⟩, ⟨0x28#8, false, 0xB7#8⟩,
    ⟨0x29#8, false, 0xB4#8⟩, ⟨0x2B#8, false, 0x57#8⟩, ⟨0x2C#8, false, 0xCC#8⟩,
    ⟨0x2D#8, false, 0x84#8⟩, ⟨0x2E#8, false, 0x54#8⟩, ⟨0x2F#8, false, 0x97#8⟩,
    ⟨0x30#8, false, 0xF8#8⟩, ⟨0x31#8, false, 0x78#8⟩, ⟨0x32#8, false, 0x38#8⟩,
    ⟨0x33#8, false, 0x18#8⟩, ⟨0x34#8, false, 0x08#8⟩, ⟨0x35#8, false, 0x07#8⟩,
    ⟨0x36#8, false, 0x87#8⟩, ⟨0x37#8, false, 0xC7#8⟩, ⟨0x38#8, false, 0xE7#8⟩,
    ⟨0x39#8, false, 0xF7#8⟩, ⟨0x3A#8, false, 0xE3#8⟩, ⟨0x3B#8, false, 0xAB#8⟩,
    ⟨0x3D#8, false, 0x88#8⟩, ⟨0x3F#8, false, 0x33#8⟩, ⟨0x40#8, false, 0x6B#8⟩,
    ⟨0x41#8, false, 0x40#8⟩, ⟨0x42#8, false, 0x8F#8⟩, ⟨0x43#8, false, 0xAF#8⟩,
    ⟨0x44#8, false, 0x9F#8⟩, ⟨0x45#8, false, 0x7F#8⟩, ⟨0x46#8, false, 0x2F#8⟩,
    ⟨0x47#8, false, 0xDF#8⟩, ⟨0x48#8, false, 0x0F#8⟩, ⟨0x49#8, false, 0x3F#8⟩,
    ⟨0x4A#8, false, 0x70#8⟩, ⟨0x4B#8, false, 0xA0#8⟩, ⟨0x4C#8, false, 0x4F#8⟩,
    ⟨0x4D#8, false, 0xC0#8⟩, ⟨0x4E#8, false, 0xBF#8⟩, ⟨0x4F#8, false, 0xE0#8⟩,
    ⟨0x50#8, false, 0x6F#8⟩, ⟨0x51#8, false, 0xD0#8⟩, ⟨0x52#8, false, 0x5F#8⟩,
    ⟨0x53#8, false, 0x1F#8⟩, ⟨0x54#8, false, 0x80#8⟩, ⟨0x55#8, false, 0x20#8⟩,
    ⟨0x56#8, false, 0x10#8⟩, ⟨0x57#8, false, 0x60#8⟩, ⟨0x58#8, false, 0x90#8⟩,
    ⟨0x59#8, false, 0xB0#8⟩, ⟨0x5A#8, false, 0xCF#8⟩, ⟨0x5F#8, false, 0x34#8⟩ ]

/-- A free configuration list made to meet the condition of R177 and D14: entries that name an
operating-mode register are left out (log 3). -/
def withoutOpmode (m : RadioMap) (l : ConfigList) : ConfigList :=
  l.filter fun e => e.1 != m.regOpmode1 && e.1 != m.regOpmode2

/-- The configuration in `State.reset`: the defaults of R8, `PN_N` = 4 as 95_test_vectors.md takes it,
free values where the spec gives no value, and BEACON_SERVICE one step as D30 rules (logs 2, 3 and 10). -/
def defaultParams : Params where
  pnN := 4
  pnGpoly := defaultGpoly 4
  pnPeriodTarget := 1#16
  rbW := 8
  rbCap0 := 16
  rbCap1 := 16
  radio := defaultRadioMap
  opmode2Base := 0x00#8
  profile0 := withoutOpmode defaultRadioMap (Config.profileEntries 0)
  profile1 := withoutOpmode defaultRadioMap (Config.profileEntries 1)
  profile2 := withoutOpmode defaultRadioMap (Config.profileEntries 2)
  xmitDirectList := withoutOpmode defaultRadioMap Config.xmitDirectEntries
  xmitPacketList := withoutOpmode defaultRadioMap Config.xmitPacketEntries
  morseTable := defaultMorseTable
  morseUnmapped := .error
  msgSize := 256
  timerW := 16
  tickPeriod := Config.tickPeriod
  unitPeriod := Config.unitPeriod
  toneDiv := Config.toneDivLessOne + 1
  irqOrder := [.cmpA, .nirq, .txclk, .cmpB]
  serviceReading := .oneStep

end Sys2Proof.Machine
end

