-- ==== Sys2Proof/Machine/State.lean ====
section
/-! DEFINITION. The state of NCB: every register, memory and in-flight record of 10_state.md, the output trace, and the inputs the environment has in store. -/

namespace Sys2Proof.Machine

/-- A byte-addressed space in its one canonical form: (index, byte) pairs with strictly rising indices.
An unlisted index holds no value of its own; what it reads as is `State.readByte`'s free value (R40,
R332; log 4). -/
abbrev Memory := List Host.Cell

/-- The canonical form: indices strictly rising. (An unlisted index holds no value, so no listed entry
can equal what an unlisted one holds.) -/
abbrev Memory.wf (m : Memory) : Prop := m.Pairwise fun x y => x.1 < y.1

/-- One ring-buffer instance (R23). Head and tail are `RB_W`-bit registers. -/
structure Ring where
  buf : Memory
  head : Nat
  tail : Nat
deriving DecidableEq, Repr

/-- The Morse generator (R27). -/
structure Morse where
  symbolShift : Byte
  keyShift : Byte
  messageCursor : Half
  msgLen : Half
  active : Bool
deriving DecidableEq, Repr

/-- The PN generator (R30). `reg` and `seed` are `PN_N`-bit registers. -/
structure Pn where
  reg : Nat
  seed : Nat
  periodCounter : Half
  complete : Bool
deriving DecidableEq, Repr

/-- The orchestrator's registers (R36). The compare registers are `TIMER_W`-bit registers. -/
structure Beacon where
  mode : Mode
  ie : BitVec 4
  ip : BitVec 4
  dataPin : Bool
  lastKey : Bool
  toneCount : Half
  ccrA : Nat
  ccrB : Nat
  wallclock : BitVec 32
  flags : Byte
deriving DecidableEq, Repr

/-- Phases of a Main put between its micro-steps (R38). -/
inductive PutPhase where
  | checked
  | stored
deriving DecidableEq, Repr

/-- Phases of a Main get between its micro-steps (R38). -/
inductive GetPhase where
  | checked
  | loaded (v : Byte)
deriving DecidableEq, Repr

/-- `main_rb`: the in-flight record of a Main ring-buffer command, with the index its check read (R38,
R131). -/
inductive MainRb where
  | none
  | put (i : RingId) (h : Nat) (b : Byte) (phase : PutPhase)
  | get (i : RingId) (t : Nat) (phase : GetPhase)
deriving DecidableEq, Repr

/-- Where Main stands in a `BEACON_SERVICE` of micro-steps: not in it, in its get, or about to run `SetState` on the
byte it got (implied by R260; log 10). -/
inductive Service where
  | idle
  | getting
  | apply (target : Byte)
deriving DecidableEq, Repr

/-- One thing Main does next: a command word on the command port (R90) or a host byte access (R40, R95). -/
inductive Request where
  | command (w : Word)
  | hostWrite (sp : HostSpace) (index : Nat) (v : Byte)
  | hostRead (sp : HostSpace) (index : Nat)
deriving DecidableEq, Repr

/-- Who acts next: the environment raises an occurrence of a source (R291), the environment asserts
block reset (R331), or NCB goes on; in a `host` turn Main, when it is the one to act, makes the host
access it has next before it goes on with a command it is in (R40: any time; log 8). -/
inductive Turn where
  | event (x : Source)
  | blockReset
  | ncb
  | host
deriving DecidableEq, Repr

/-- The radio's answer to one SPI transaction: the bytes it returns on a read and whether the transport
reports failure (R141, R145, R147). -/
structure Answer where
  received : List Byte
  fails : Bool
deriving DecidableEq, Repr

/-- The inputs the environment and Main have in store, each oldest first (logs 5 to 8). When a list is
empty the step goes on without it: no more turns means NCB's turn, no more requests means NCB waits,
no more answers or timer readings means the free values of Config. -/
structure Env where
  requests : List Request
  turns : List Turn
  answers : List Answer
  timerReads : List Nat
deriving DecidableEq, Repr

/-- The state of NCB (10_state.md). -/
structure State where
  /-- The parameters of R8; no step writes them (log 1). -/
  params : Params
  /-- `rb[0]`, symbols from Main to the handlers (R23, R73). -/
  rb0 : Ring
  /-- `rb[1]`, requests from the handlers to Main (R23, R73). -/
  rb1 : Ring
  /-- The Morse generator (R27). -/
  morse : Morse
  /-- The PN generator (R30). -/
  pn : Pn
  /-- `RadioState` (R33). -/
  radioState : RadioState
  /-- `spi_fault` (R34). -/
  spiFault : Bool
  /-- The orchestrator's registers (R36). -/
  beacon : Beacon
  /-- `main_rb` (R38). -/
  mainRb : MainRb
  /-- Main's place in `BEACON_SERVICE` (R260; log 10). -/
  service : Service
  /-- Space MSG (R40). -/
  msg : Memory
  /-- Space XFER (R40). -/
  xfer : Memory
  /-- The output trace since block reset, oldest event first (R16). -/
  trace : List TraceEvent
  /-- How many times block reset has been asserted since the machine was built (log 16). -/
  epoch : Nat
  /-- Inputs in store (logs 5 to 8). -/
  env : Env
deriving DecidableEq, Repr

/-- Why the machine stops. -/
inductive Fault where
  /-- A host access to MSG or XFER at an index the space does not have (R40): such an address does not
  exist. Raised by a host read or write request; safe, since the model stops where the spec gives no
  such access (log 15). -/
  | noSuchAddress
deriving DecidableEq, Repr

/-- Why the model declines. -/
inductive Refusal where
  /-- An instruction without a meaning, by its mnemonic. Raised by no arm of `exec`; safe. -/
  | notModelled (mnemonic : String)
  /-- A configuration that is not a configuration of NCB (R25, R230, U5, U12, D14). Raised by
  `State.construct` only, never by a step; safe, since the spec refuses it at construction. -/
  | illegalConfiguration
deriving DecidableEq, Repr

/-- An empty ring buffer with nothing written in its array (R26). -/
def Ring.reset : Ring := ⟨[], 0, 0⟩

/-- The Morse generator after block reset (R29). -/
def Morse.reset : Morse where
  symbolShift := 0x00#8
  keyShift := 0x00#8
  messageCursor := 0#16
  msgLen := 0#16
  active := false

/-- The PN generator after block reset (R32). -/
def Pn.reset : Pn where
  reg := 0
  seed := 0
  periodCounter := 0#16
  complete := true

/-- The orchestrator after block reset (R36, R37). -/
def Beacon.reset : Beacon where
  mode := .off
  ie := 0#4
  ip := 0#4
  dataPin := false
  lastKey := false
  toneCount := 0#16
  ccrA := 0
  ccrB := 0
  wallclock := 0#32
  flags := 0x00#8

/-- No inputs in store. -/
def Env.none : Env := ⟨[], [], [], []⟩

/-- The state block reset leaves (R43, R330), for a configuration, a number of block resets and the
inputs in store, which are outside NCB. -/
def State.afterReset (p : Params) (epoch : Nat) (env : Env) : State where
  params := p
  rb0 := Ring.reset
  rb1 := Ring.reset
  morse := Morse.reset
  pn := Pn.reset
  radioState := .shutdown
  spiFault := false
  beacon := Beacon.reset
  mainRb := .none
  service := .idle
  msg := []
  xfer := []
  trace := []
  epoch := epoch
  env := env

/-- The machine right after reset (R330), with the default configuration and no input in store. -/
def State.reset : State := State.afterReset defaultParams 0 Env.none

/-- Building the block: an illegal configuration is refused at construction (R25, U5, U12, D14). -/
def State.construct (p : Params) : Host.Outcome State Fault Refusal :=
  if p.constructible then .next (State.afterReset p 0 Env.none) else .refused .illegalConfiguration

end Sys2Proof.Machine
end

