-- ==== Sys2Proof/Machine/Operands.lean ====
section
/-! DEFINITION. Operand forms and the arithmetic on them: modular arithmetic of parameter-width registers, byte and bit helpers, and the range checks of R287. -/

namespace Sys2Proof.Machine

/-- `a +_W b`, addition modulo `2^W` (R10). -/
def addW (w a b : Nat) : Nat := (a + b) % 2 ^ w

/-- `a -_W b`, subtraction modulo `2^W`, always in `[0, 2^W - 1]` (R10). -/
def subW (w a b : Nat) : Nat := (a + (2 ^ w - b % 2 ^ w)) % 2 ^ w

/-- `trunc_W(v)` (R10). -/
def truncW (w v : Nat) : Nat := v % 2 ^ w

/-- `zext_16` of a byte (R10). -/
def zext16 (b : Byte) : Half := b.setWidth 16

/-- `{hi, lo}`: two bytes as one 16-bit value, `hi` more significant (R9). -/
def pair16 (hi lo : Byte) : Half := hi ++ lo

/-- A Boolean as a 16-bit 0 or 1. -/
def bit16 (b : Bool) : Half := if b then 1#16 else 0#16

/-- A count as the 16-bit value of a result (R96); the spec states no value for a count that does not fit
(log 25). -/
def count16 (n : Nat) : Half := if n < 2 ^ 16 then BitVec.ofNat 16 n else Config.wideCount n

/-- The instance an id names; ids of `RB_COUNT` and above name none (R120). -/
def RingId.ofByte (i : Byte) : Option RingId :=
  match i with
  | 0#8 => some .rb0
  | 1#8 => some .rb1
  | _ => none

/-- A burst count is in 1 to `XFER_SIZE` (R150 to R152). -/
def burstCountOk (n : Byte) : Bool := n != 0#8 && decide (n.toNat ≤ Config.xferSize)

/-- Profile `CFG_PROFILE[k]`, for k below `CFG_COUNT` (R103, R169). -/
def Params.profile (p : Params) (k : Byte) : Option ConfigList :=
  match k with
  | 0#8 => some p.profile0
  | 1#8 => some p.profile1
  | 2#8 => some p.profile2
  | _ => none

/-- `RB_CAP[i]` (R8). -/
def Params.rbCap (p : Params) (i : RingId) : Nat :=
  match i with
  | .rb0 => p.rbCap0
  | .rb1 => p.rbCap1

/-- `OPMODE2_IDLE = OPMODE2_BASE & ~(BIT_FFCLRRX | BIT_FFCLRTX)` (R162). -/
def Params.opmode2Idle (p : Params) : Byte :=
  p.opmode2Base &&& ~~~(p.radio.bitFfclrrx ||| p.radio.bitFfclrtx)

/-- `OPMODE1_OF(s)` (R162). -/
def Params.opmode1Of (p : Params) (t : Target) : Byte :=
  match t with
  | .ready => p.radio.bitXton
  | .xmitDirect | .xmitPacket => p.radio.bitXton ||| p.radio.bitTxon
  | .recvPacket => p.radio.bitXton ||| p.radio.bitRxon

/-- The mode list written on entry to a target (R171 step 2, R177). -/
def Params.modeList (p : Params) (t : Target) : ConfigList :=
  match t with
  | .xmitDirect => p.xmitDirectList
  | .xmitPacket => p.xmitPacketList
  | .ready | .recvPacket => []

/-- Size in bytes of a host-visible space (R40). -/
def Params.hostSize (p : Params) (sp : HostSpace) : Nat :=
  match sp with
  | .msg => p.msgSize
  | .xfer => Config.xferSize

/-- `slot(x) = x & (CAP - 1)`, the array index of free-running index `x` (R121). -/
def slot (cap x : Nat) : Nat := x &&& (cap - 1)

/-- The SPI address byte: bit 7 the write flag, bits 6:0 the register address (R98, R142). -/
def addressByte (dir : Dir) (addr : RegAddr) : Byte :=
  match dir with
  | .wr => 1#1 ++ addr
  | .rd => 0#1 ++ addr

/-- The bytes NCB drives on the wire for one trace event: for an SPI transaction the address byte and
then each data or filler byte (R99, R141). -/
def wireBytes (e : TraceEvent) : List Byte :=
  match e with
  | .spi dir addr sent _ => addressByte dir addr :: sent
  | .pin _ _ | .delay _ | .ccr _ _ | .result _ _ | .irq _ => []

/-- The result word of a status and a value (R96). -/
def resultWord (st : Status) (v : Half) : Word := st.code ++ v

end Sys2Proof.Machine
end

