-- ==== Sys2Proof/Machine/Flags.lean ====
section
/-! DEFINITION. The bits of `beacon.ie`, `beacon.ip` and `beacon.flags` (R36, R37, R290). -/

namespace Sys2Proof.Machine

/-- A 4-bit register with one bit set or cleared. -/
def putBit4 (r : BitVec 4) (k : Nat) (b : Bool) : BitVec 4 :=
  if b then r ||| (1#4 <<< k) else r &&& ~~~(1#4 <<< k)

/-- An enable register with the bit of one source written (R36). -/
def setSource (r : BitVec 4) (x : Source) (b : Bool) : BitVec 4 := putBit4 r x.bit b

/-- The bit of one source in `beacon.ie` or `beacon.ip` (R36). -/
def hasSource (r : BitVec 4) (x : Source) : Bool := r.getLsbD x.bit

/-- A source is deliverable when it is pending and enabled (R292). -/
def Beacon.deliverable (b : Beacon) (x : Source) : Bool := hasSource b.ip x && hasSource b.ie x

/-- Bit 0 of `beacon.flags`: the symbol queue gave no symbol at a tick (R37, R101). -/
def flagUnderrun : Byte := 0x01#8

/-- Bit 1: the request queue was full when a request had to be queued (R37). -/
def flagReqOverrun : Byte := 0x02#8

/-- Bit 2: a Morse tick inside a handler met an unmapped character (R37). -/
def flagInvalidChar : Byte := 0x04#8

/-- Bit 3: an event arrived while its pending bit was already set (R37). -/
def flagTickOverrun : Byte := 0x08#8

/-- Bit 4: a radio operation run by a handler ended with an error status (R37). -/
def flagIsrRadioError : Byte := 0x10#8

/-- A handler sets a sticky flag; only block reset clears it (R37). -/
def Beacon.raise (b : Beacon) (flag : Byte) : Beacon := { b with flags := b.flags ||| flag }

/-- An event arrives: an enabled source already pending loses the occurrence and sets `tick_overrun`;
the pending bit is set whether or not the source is enabled (R291). -/
def Beacon.arrive (b : Beacon) (x : Source) : Beacon :=
  let b1 := if b.deliverable x then b.raise flagTickOverrun else b
  { b1 with ip := setSource b1.ip x true }

/-- Handler entry clears the pending bit of its source (R296). -/
def Beacon.acknowledge (b : Beacon) (x : Source) : Beacon := { b with ip := setSource b.ip x false }

end Sys2Proof.Machine
end

