-- ==== Sys2Proof/Machine/Ops.lean ====
section
/-! DEFINITION. The named operations every meaning is written over: byte memories, ring and register accessors, the output trace and results, SPI transactions, timer reads, and entering and leaving a handler. -/

namespace Sys2Proof.Machine

/-! ## Byte memories (R40, R60) -/

/-- The byte listed at an index, if one has been written. -/
def Memory.lookup : Memory → Nat → Option Byte
  | [], _ => none
  | (a, v) :: m, k => if a = k then some v else Memory.lookup m k

/-- One byte written at an index, keeping the canonical form. -/
def Memory.write : Memory → Nat → Byte → Memory
  | [], k, v => [(k, v)]
  | (a, w) :: m, k, v =>
    if k < a then (k, v) :: (a, w) :: m
    else if k = a then (k, v) :: m
    else (a, w) :: Memory.write m k v

/-- Bytes written at consecutive indices, the first at `k` (R150). -/
def Memory.writeAll : Memory → Nat → List Byte → Memory
  | m, _, [] => m
  | m, k, v :: vs => Memory.writeAll (Memory.write m k v) (k + 1) vs

/-- The memory of a space (R40). -/
def State.memory (s : State) (sp : Space) : Memory :=
  match sp with
  | .rb0 => s.rb0.buf
  | .rb1 => s.rb1.buf
  | .msg => s.msg
  | .xfer => s.xfer

/-- `MemRead(S[k], 1)` (R12, R65): the byte last written, or the free value of a byte nothing has
written since block reset (R332; log 4). -/
def State.readByte (s : State) (sp : Space) (k : Nat) : Byte :=
  match Memory.lookup (s.memory sp) k with
  | some v => v
  | none => Config.unwrittenByte s.epoch sp k

/-- `XFER[0..n-1]` in ascending order (R151, R182). -/
def State.xferBytes (s : State) (n : Nat) : List Byte := (List.range n).map fun k => s.readByte .xfer k

/-! ## Registers -/

/-- `rb[i]` (R23). -/
def State.ring (s : State) (i : RingId) : Ring :=
  match i with
  | .rb0 => s.rb0
  | .rb1 => s.rb1

/-- `rb[i]` written. -/
def State.setRing (s : State) (i : RingId) (r : Ring) : State :=
  match i with
  | .rb0 => { s with rb0 := r }
  | .rb1 => { s with rb1 := r }

/-- The space of an instance's backing array (R23). -/
def RingId.space (i : RingId) : Space :=
  match i with
  | .rb0 => .rb0
  | .rb1 => .rb1

/-- The Morse generator written. -/
def State.setMorse (s : State) (m : Morse) : State := { s with morse := m }

/-- The PN generator written. -/
def State.setPn (s : State) (p : Pn) : State := { s with pn := p }

/-- `RadioState` written; only `SetState` does (R33). -/
def State.setRadioState (s : State) (r : RadioState) : State := { s with radioState := r }

/-- `spi_fault` set (R34). -/
def State.setSpiFault (s : State) : State := { s with spiFault := true }

/-- The orchestrator's registers written. -/
def State.setBeacon (s : State) (b : Beacon) : State := { s with beacon := b }

/-- `main_rb` written. -/
def State.setMainRb (s : State) (m : MainRb) : State := { s with mainRb := m }

/-- Main's place in `BEACON_SERVICE` written. -/
def State.setService (s : State) (v : Service) : State := { s with service := v }

/-- Space MSG written. -/
def State.setMsg (s : State) (m : Memory) : State := { s with msg := m }

/-- Space XFER written. -/
def State.setXfer (s : State) (m : Memory) : State := { s with xfer := m }

/-- The inputs in store written. -/
def State.setEnv (s : State) (e : Env) : State := { s with env := e }

/-! ## The trace and results (R14 to R16) -/

/-- One event appended to the output trace (R16). -/
def State.emit (s : State) (e : TraceEvent) : State := { s with trace := s.trace ++ [e] }

/-- A status and a value (R96). -/
structure Reply where
  status : Status
  value : Half
deriving DecidableEq, Repr

/-- A command ends with a reply: its `Result` event is appended (R14, R16). -/
def State.finish (s : State) (r : Reply) : State := s.emit (.result r.status r.value)

/-- The last result word on the result port, read off the trace (R96). -/
def State.lastResult (s : State) : Option Word :=
  s.trace.reverse.findSome? fun e =>
    match e with
    | .result st v => some (resultWord st v)
    | .spi _ _ _ _ | .pin _ _ | .delay _ | .ccr _ _ | .irq _ => none

/-- A one-step command whose function gives a reply and a state: its `Result` event ends the step. -/
def answer (x : Reply × State) : Host.Outcome State Fault Refusal := .next (x.2.finish x.1)

/-- The reply of a command refused for an operand (R287). -/
def Reply.illegalOperand : Reply := ⟨.illegalOperand, 0#16⟩

/-- The reply of a command that met a transport failure (R147, R286). -/
def Reply.transportError : Reply := ⟨.transportError, 0#16⟩

/-- `PinWrite(DATA, b)` with the register that holds the level (R15, R36). -/
def State.driveData (s : State) (b : Bool) : State :=
  (s.setBeacon { s.beacon with dataPin := b }).emit (.pin .data b)

/-- `ccr_a` written and mirrored to the timer by `CcrWrite(A, v)` (R15, R315). -/
def State.writeCcrA (s : State) (v : Nat) : State :=
  (s.setBeacon { s.beacon with ccrA := v }).emit (.ccr .a v)

/-- `ccr_b` written and mirrored to the timer by `CcrWrite(B, v)` (R15, R315). -/
def State.writeCcrB (s : State) (v : Nat) : State :=
  (s.setBeacon { s.beacon with ccrB := v }).emit (.ccr .b v)

/-! ## SPI transactions (R13, R141, R147) -/

/-- The radio's answer to the next transaction: the first in store, or an answer without scripted bytes
that reports no failure (logs 5 and 6). -/
def State.nextAnswer (s : State) : Answer :=
  match s.env.answers with
  | [] => ⟨[], false⟩
  | a :: _ => a

/-- The answer to the transaction just made is used up. -/
def State.dropAnswer (s : State) : State := s.setEnv { s.env with answers := s.env.answers.tail }

/-- The bytes a read of `n` bytes receives: the scripted ones, and for the rest the oracle of the radio
applied to the trace so far (R19, R145; log 5). -/
def State.receivedBytes (s : State) (addr : RegAddr) (n : Nat) : List Byte :=
  (List.range n).map fun k =>
    match s.nextAnswer.received[k]? with
    | some v => v
    | none => Config.radioByte s.epoch s.trace addr k

/-- `SpiTxn(dir, addr, out)` (R141): nothing on the bus once `spi_fault` is set; else the transaction is
traced, and a failure the transport reports sets `spi_fault` (R147). `none` is the spec's `fail`. -/
def spiTxn (dir : Dir) (addr : RegAddr) (out : List Byte) (s : State) : Option (List Byte) × State :=
  if s.spiFault then (none, s)
  else
    let received :=
      match dir with
      | .rd => s.receivedBytes addr out.length
      | .wr => []
    let s1 := s.dropAnswer.emit (.spi dir addr out received)
    if s.nextAnswer.fails then (none, s1.setSpiFault) else (some received, s1)

/-- One action of a command on the SPI bus: a write of data bytes, a read of `n` bytes (a filler 0x00 is
sent for each, R99), or a wait. -/
inductive BusOp where
  | write (addr : RegAddr) (data : List Byte)
  | read (addr : RegAddr) (n : Nat)
  | delay (d : DelayName)
deriving DecidableEq, Repr

/-- A sequence of bus actions in order, ended by the first failure (R147). It gives all bytes read, in
order, or `none` at a failure, and the state reached. -/
def busRun : List BusOp → State → Option (List Byte) × State
  | [], s => (some [], s)
  | .delay d :: ops, s => busRun ops (s.emit (.delay d))
  | .write addr data :: ops, s =>
    match spiTxn .wr addr data s with
    | (none, s1) => (none, s1)
    | (some _, s1) => busRun ops s1
  | .read addr n :: ops, s =>
    match spiTxn .rd addr (List.replicate n 0x00#8) s with
    | (none, s1) => (none, s1)
    | (some bytes, s1) =>
      match busRun ops s1 with
      | (none, s2) => (none, s2)
      | (some more, s2) => (some (bytes ++ more), s2)

/-- `RegWrite(addr, v)` as a bus action (R13). -/
def BusOp.regWrite (addr : RegAddr) (v : Byte) : BusOp := .write addr [v]

/-- `RegRead(addr)` as a bus action (R13). -/
def BusOp.regRead (addr : RegAddr) : BusOp := .read addr 1

/-- The register writes of a configuration list, in list order (R103). -/
def configWrites (l : ConfigList) : List BusOp := l.map fun e => .regWrite e.1 e.2

/-! ## The timer (R252, R315) -/

/-- `TimerNow()`: the first reading in store, or the free value of the counter, as a `TIMER_W`-bit value
(R252; log 7). -/
def State.timerNow (s : State) : Nat :=
  truncW s.params.timerW
    (match s.env.timerReads with
    | [] => Config.timerNow s.epoch s.trace
    | t :: _ => t)

/-- The timer reading just made is used up. -/
def State.dropTimerRead (s : State) : State := s.setEnv { s.env with timerReads := s.env.timerReads.tail }

/-! ## Taking an interrupt and returning from it (R296) -/

/-- Handler entry: `Irq(x)` is traced and the pending bit of the source cleared. Nothing is saved and no
mode changes: NCB has no program counter, stack or status word to save (R296). -/
def State.enterHandler (s : State) (x : Source) : State :=
  (s.emit (.irq x)).setBeacon (s.beacon.acknowledge x)

/-- Handler return: nothing is restored, and Main resumes with `main_rb` as it was (R296). -/
def State.leaveHandler (s : State) : State := s

end Sys2Proof.Machine
end

