-- ==== Sys2Proof/Machine/MorseGenerator.lean ====
section
/-! DEFINITION. The Morse keying encoder (43_morse.md). -/

namespace Sys2Proof.Machine

/-- `shl_sticky(x) = trunc_8(x << 1) | x[0]` (R201). -/
def shlSticky (x : Byte) : Byte := (x <<< 1) ||| (x &&& 1#8)

/-- `exhausted(x)`: all zero or all one (R28, R202). -/
def exhausted (x : Byte) : Bool := x == 0x00#8 || x == 0xFF#8

/-- A dot that is not the last symbol of its letter (R105). -/
def keyDot : Byte := 0xBF#8

/-- A dash that is not the last symbol of its letter (R105). -/
def keyDash : Byte := 0xEF#8

/-- A dot that ends its letter (R105). -/
def keyDotLast : Byte := 0x8F#8

/-- A dash that ends its letter (R105). -/
def keyDashLast : Byte := 0xE3#8

/-- A word space (R105). -/
def keyWordspace : Byte := 0x0F#8

/-- What the table says of a character (R106). -/
inductive MorseFound where
  | code (v : Byte)
  | wordSpace
  | unmapped
deriving DecidableEq, Repr

/-- `MorseLookup(c)` (R106, R202). -/
def morseLookup (table : List MorseEntry) (c : Byte) : MorseFound :=
  match table.find? fun e => e.ascii == c with
  | none => .unmapped
  | some e => if e.ws then .wordSpace else .code e.code

/-- What one `MorseStep` gives: a key state, or the unmapped character it met (R205). -/
inductive MorseOutcome where
  | key (k : KeyState)
  | invalid (c : Byte)
deriving DecidableEq, Repr

/-- Phase F: bit 7 of the key pattern is keyed out and the pattern shifted (R207). -/
def morseKeyOut (m : Morse) : MorseOutcome × Morse :=
  (.key (if m.keyShift.getLsbD 7 then .on else .off), { m with keyShift := shlSticky m.keyShift })

/-- Phase E: the next symbol of the letter is taken and its key pattern loaded (R208). -/
def morseNextSymbol (m : Morse) : Morse :=
  let sym := shlSticky m.symbolShift
  let last := exhausted sym
  { m with
    symbolShift := sym
    keyShift :=
      if m.symbolShift.getLsbD 7 then (if last then keyDashLast else keyDash)
      else (if last then keyDotLast else keyDot) }

/-- Phase C: character `c` is fetched, the cursor advanced, and what the table says of `c` loaded; an
unmapped character under the `Error` policy gives `none` beside the state at the raise (R209, R211,
R212). -/
def morseFetch (p : Params) (c : Byte) (m : Morse) : Option Morse × Morse :=
  let m1 := { m with messageCursor := m.messageCursor + 1#16 }
  match morseLookup p.morseTable c with
  | .code v => (some { m1 with symbolShift := v }, m1)
  | .wordSpace => (some { m1 with keyShift := keyWordspace }, m1)
  | .unmapped =>
    match p.morseUnmapped with
    | .wordSpace => (some { m1 with keyShift := keyWordspace }, m1)
    | .error => (none, m1)

/-- Phases E and F of a live generator: a symbol is taken if the key pattern is used up, and one unit
keyed out (R205). -/
def morseUnit (m : Morse) : MorseOutcome × Morse :=
  morseKeyOut (if exhausted m.keyShift then morseNextSymbol m else m)

/-- `MorseStep()` with `c` the byte `MSG[message_cursor]`, read only in phase C (R205): at most one lookup and
two shifts, no loop (R216), and no call of anything else (R218). -/
def morseStep (p : Params) (c : Byte) (m : Morse) : MorseOutcome × Morse :=
  if !m.active then (.key .off, m)
  else if exhausted m.keyShift && exhausted m.symbolShift then
    if m.messageCursor = m.msgLen then (.key .done, { m with active := false })
    else
      match morseFetch p c m with
      | (some m1, _) => morseUnit m1
      | (none, m1) => (.invalid c, m1)
  else morseUnit m

/-- One `MorseStep` of the block's generator (R205, R210). -/
def State.morseStep (s : State) : MorseOutcome × State :=
  let r := Sys2Proof.Machine.morseStep s.params (s.readByte .msg s.morse.messageCursor.toNat) s.morse
  (r.1, s.setMorse r.2)

/-! ## Commands -/

/-- MORSE_START len (R203). -/
def execMorseStart (len : Half) (s : State) : Host.Outcome State Fault Refusal :=
  answer
    (if s.params.msgSize < len.toNat then (.illegalOperand, s)
    else
      (⟨.ok, 0#16⟩,
        s.setMorse
          { symbolShift := 0x00#8, keyShift := 0x00#8, messageCursor := 0#16, msgLen := len,
            active := true }))

/-- The reply of `MORSE_TICK` (R205). -/
def MorseOutcome.reply (o : MorseOutcome) : Reply :=
  match o with
  | .key k => ⟨.ok, zext16 k.code⟩
  | .invalid c => ⟨.invalidCharacter, zext16 c⟩

/-- MORSE_TICK (R205). -/
def execMorseTick (s : State) : Host.Outcome State Fault Refusal :=
  answer (s.morseStep.1.reply, s.morseStep.2)

end Sys2Proof.Machine
end

