-- ==== Sys2Proof/Machine/RadioDriver.lean ====
section
/-! DEFINITION. The radio driver: reset, identity, configuration, the operating-mode state machine and packet load (42_radio_driver.md). -/

namespace Sys2Proof.Machine

/-! ## The operating-mode state machine (R171 to R180) -/

/-- The register writes of a transition from the current state to a target, in order: the enables
dropped when leaving a transmit or receive state, the target's mode list, the FIFO-clear bits cleared,
the state-control bits asserted (R171 steps 1 to 4). -/
def transitionWrites (p : Params) (current : RadioState) (t : Target) : List BusOp :=
  (if current.isTxRx then [.regWrite p.radio.regOpmode1 p.radio.bitXton] else [])
    ++ configWrites (p.modeList t)
    ++ [.regWrite p.radio.regOpmode2 p.opmode2Idle, .regWrite p.radio.regOpmode1 (p.opmode1Of t)]

/-- A transition to an accepted target: its writes, and `RadioState` only when all of them succeeded
(R171 steps 1 to 5). -/
def enterTarget (t : Target) (s : State) : Reply × State :=
  match busRun (transitionWrites s.params s.radioState t) s with
  | (some _, s1) => (⟨.ok, (t.state.code).setWidth 16⟩, s1.setRadioState t.state)
  | (none, s1) => (.transportError, s1)

/-- `SetState(s)` on an operand byte (R171, R172): codes above 10 are illegal, seven states are refused
(R178, R179). -/
def setState (target : Byte) (s : State) : Reply × State :=
  match RadioState.ofByte target with
  | none => (.illegalOperand, s)
  | some r =>
    match r.target with
    | none => (⟨.notImplemented, 0#16⟩, s)
    | some t => enterTarget t s

/-! ## Commands -/

/-- RADIO_RESET (R164). -/
def execRadioReset (s : State) : Host.Outcome State Fault Refusal :=
  let m := s.params.radio
  answer
    (match busRun
        [.regWrite m.regOpmode1 m.bitSwres, .delay .resetDelay,
          .regRead m.regIntStatus1, .regRead m.regIntStatus2] s with
    | (some [s1, s2], t) =>
      (⟨if s2 &&& m.bitPor != 0#8 then .ok else .porTimeout, pair16 s1 s2⟩, t)
    | (_, t) => (.transportError, t))

/-- RADIO_CHECK_ID (R167): both registers are always read. -/
def execRadioCheckId (s : State) : Host.Outcome State Fault Refusal :=
  let m := s.params.radio
  answer
    (match busRun [.regRead m.regDeviceType, .regRead m.regDeviceVersion] s with
    | (some [ty, ver], t) =>
      (⟨if ty == m.idDeviceType && ver == m.idDeviceVersion then .ok else .identityMismatch,
        pair16 ty ver⟩, t)
    | (_, t) => (.transportError, t))

/-- RADIO_APPLY_CONFIG k (R169). -/
def execRadioApplyConfig (k : Byte) (s : State) : Host.Outcome State Fault Refusal :=
  answer
    (match s.params.profile k with
    | none => (.illegalOperand, s)
    | some l =>
      match busRun (configWrites l) s with
      | (some _, t) => (⟨.ok, count16 l.length⟩, t)
      | (none, t) => (.transportError, t))

/-- RADIO_SET_STATE target (R171). -/
def execRadioSetState (target : Byte) (s : State) : Host.Outcome State Fault Refusal :=
  answer (setState target s)

/-- The bus actions of `RADIO_LOAD_PACKET n` (R182): the FIFO cleared, the length, the payload in one
burst when there is any, the enables, and the two draining reads. -/
def loadPacketOps (p : Params) (n : Byte) (payload : List Byte) : List BusOp :=
  let m := p.radio
  [.regWrite m.regOpmode2 (p.opmode2Idle ||| m.bitFfclrtx), .regWrite m.regOpmode2 p.opmode2Idle,
    .regWrite m.regPktLen n]
    ++ (if n = 0#8 then [] else [.write m.regFifo payload])
    ++ [.regWrite m.regIntEnable1 m.bitPksent, .regWrite m.regIntEnable2 0x00#8,
      .regRead m.regIntStatus1, .regRead m.regIntStatus2]

/-- RADIO_LOAD_PACKET n (R182). -/
def execRadioLoadPacket (n : Byte) (s : State) : Host.Outcome State Fault Refusal :=
  answer
    (if Config.fifoCapacity < n.toNat then (⟨.payloadTooLarge, 0#16⟩, s)
    else
      match busRun (loadPacketOps s.params n (s.xferBytes n.toNat)) s with
      | (some _, t) => (⟨.ok, zext16 n⟩, t)
      | (none, t) => (.transportError, t))

end Sys2Proof.Machine
end

