-- ==== Sys2Proof/Machine/RingBuffer.lean ====
section
/-! DEFINITION. The ring buffer: its derived quantities, the micro-steps of put and get, and the six commands (40_ringbuffer.md). -/

namespace Sys2Proof.Machine

/-! ## Derived quantities (R121) -/

/-- `occupied = head -_W tail` (R121). -/
def State.occupied (s : State) (i : RingId) : Nat := subW s.params.rbW (s.ring i).head (s.ring i).tail

/-- `full = (occupied == CAP)` (R121). -/
def State.isFull (s : State) (i : RingId) : Bool := s.occupied i == s.params.rbCap i

/-- `empty = (occupied == 0)` (R121). -/
def State.isEmpty (s : State) (i : RingId) : Bool := s.occupied i == 0

/-- The byte stored at free-running index `x` of an instance. -/
def State.ringByte (s : State) (i : RingId) (x : Nat) : Byte :=
  s.readByte i.space (slot (s.params.rbCap i) x)

/-! ## Micro-steps (R122, R124, R131) -/

/-- P2: the byte is stored at the slot of the index read in P1. -/
def ringStore (i : RingId) (h : Nat) (b : Byte) (s : State) : State :=
  let r := s.ring i
  s.setRing i { r with buf := Memory.write r.buf (slot (s.params.rbCap i) h) b }

/-- P3: `head <- h +_W 1`, with the `h` read in P1. -/
def ringPublishHead (i : RingId) (h : Nat) (s : State) : State :=
  s.setRing i { s.ring i with head := addW s.params.rbW h 1 }

/-- G3: `tail <- t +_W 1`, with the `t` read in G1. -/
def ringPublishTail (i : RingId) (t : Nat) (s : State) : State :=
  s.setRing i { s.ring i with tail := addW s.params.rbW t 1 }

/-- P1, P2, P3 back to back, as a handler puts (R132): the new state, or `none` when full. -/
def ringPut (i : RingId) (b : Byte) (s : State) : Option State :=
  if s.isFull i then none
  else some (ringPublishHead i (s.ring i).head (ringStore i (s.ring i).head b s))

/-- G1, G2, G3 back to back, as a handler gets (R132): the byte and the new state, or `none` when empty. -/
def ringGet (i : RingId) (s : State) : Option (Byte × State) :=
  if s.isEmpty i then none
  else some (s.ringByte i (s.ring i).tail, ringPublishTail i (s.ring i).tail s)

/-- P1 of a Main put: `Full` ends the command; otherwise the locals go to `main_rb` (R122, R131). -/
def mainPutCheck (i : RingId) (b : Byte) (s : State) : State :=
  if s.isFull i then s.finish ⟨.full, 0#16⟩ else s.setMainRb (.put i (s.ring i).head b .checked)

/-- G1 of a Main get: `Empty` ends the command; otherwise the locals go to `main_rb` (R124, R131). -/
def mainGetCheck (i : RingId) (s : State) : State :=
  if s.isEmpty i then s.finish ⟨.empty, 0#16⟩ else s.setMainRb (.get i (s.ring i).tail .checked)

/-- After G3 of a Main get: `RB_GET` returns the byte; `BEACON_SERVICE` keeps it for its `SetState`
(R124, R260). -/
def mainGetDone (v : Byte) (s : State) : State :=
  match s.service with
  | .idle => s.finish ⟨.ok, zext16 v⟩
  | .getting => s.setService (.apply v)
  | .apply _ => s.finish ⟨.ok, zext16 v⟩

/-- The next micro-step of the ring-buffer command Main is in, if it is in one (R131). -/
def mainMicroStep (s : State) : Option State :=
  match s.mainRb with
  | .none => none
  | .put i h b .checked => some ((ringStore i h b s).setMainRb (.put i h b .stored))
  | .put i h _ .stored => some (((ringPublishHead i h s).setMainRb .none).finish ⟨.ok, 0#16⟩)
  | .get i t .checked => some (s.setMainRb (.get i t (.loaded (s.ringByte i t))))
  | .get i t (.loaded v) => some (mainGetDone v ((ringPublishTail i t s).setMainRb .none))

/-! ## Commands -/

/-- RB_PUT i, b: its step P1 (R122); P2 and P3 are `mainMicroStep`. -/
def execRbPut (i b : Byte) (s : State) : Host.Outcome State Fault Refusal :=
  .next
    (match RingId.ofByte i with
    | none => s.finish .illegalOperand
    | some id => mainPutCheck id b s)

/-- RB_GET i: its step G1 (R124); G2 and G3 are `mainMicroStep`. -/
def execRbGet (i : Byte) (s : State) : Host.Outcome State Fault Refusal :=
  .next
    (match RingId.ofByte i with
    | none => s.finish .illegalOperand
    | some id => mainGetCheck id s)

/-- The reply of a read-only ring-buffer command: the instance check first, then the value read. -/
def ringQuery (i : Byte) (f : RingId → Reply) (s : State) : Host.Outcome State Fault Refusal :=
  answer
    (match RingId.ofByte i with
    | none => .illegalOperand
    | some id => f id, s)

/-- RB_LEN i (R126). -/
def execRbLen (i : Byte) (s : State) : Host.Outcome State Fault Refusal :=
  ringQuery i (fun id => ⟨.ok, count16 (s.occupied id)⟩) s

/-- RB_PEEK i, n (R128): `n` counts from 0 at the tail, and `n >= occupied` is `Empty`. -/
def execRbPeek (i n : Byte) (s : State) : Host.Outcome State Fault Refusal :=
  ringQuery i
    (fun id =>
      if s.occupied id ≤ n.toNat then ⟨.empty, 0#16⟩
      else ⟨.ok, zext16 (s.ringByte id (addW s.params.rbW (s.ring id).tail n.toNat))⟩)
    s

/-- RB_ISFULL i (R129). -/
def execRbIsFull (i : Byte) (s : State) : Host.Outcome State Fault Refusal :=
  ringQuery i (fun id => ⟨.ok, bit16 (s.isFull id)⟩) s

/-- RB_ISEMPTY i (R130). -/
def execRbIsEmpty (i : Byte) (s : State) : Host.Outcome State Fault Refusal :=
  ringQuery i (fun id => ⟨.ok, bit16 (s.isEmpty id)⟩) s

end Sys2Proof.Machine
end

