-- ==== Sys2Proof/Machine/Orchestrator.lean ====
section
/-! DEFINITION. The orchestrator's four commands and its stop action (45_orchestrator.md). -/

namespace Sys2Proof.Machine

/-! ## The stop action (R256) -/

/-- Steps 2 to 4 of the stop action: the three sources masked, the key line low, the mode Off (R256). -/
def maskAndSilence (s : State) : State :=
  let b := s.beacon
  let s1 := s.setBeacon
    { b with ie := setSource (setSource (setSource b.ie .cmpA false) .txclk false) .nirq false }
  let s2 := s1.driveData false
  s2.setBeacon { s2.beacon with mode := .off }

/-- `StopAction()` (R256): the radio first, then the mask; steps 2 to 4 also after a bus failure. -/
def stopAction (s : State) : Reply × State :=
  let r := enterTarget .ready s
  (r.1, maskAndSilence r.2)

/-! ## BEACON_START (R252) -/

/-- Key and tone state cleared, the data pin driven low, stale events of CMP_A, TXCLK and NIRQ dropped. -/
def startClear (s : State) : State :=
  let s1 := (s.setBeacon { s.beacon with lastKey := false, toneCount := 0#16 }).driveData false
  s1.setBeacon
    { s1.beacon with
      ip := setSource (setSource (setSource s1.beacon.ip .cmpA false) .txclk false) .nirq false }

/-- Channel B armed if it is not yet enabled. -/
def startChannelB (s : State) : State :=
  if hasSource s.beacon.ie .cmpB then s
  else
    let s1 := s.dropTimerRead.writeCcrB (addW s.params.timerW s.timerNow s.params.unitPeriod)
    s1.setBeacon { s1.beacon with ie := setSource s1.beacon.ie .cmpB true }

/-- Channel A armed in the modes that tick on it. -/
def startChannelA (m : Mode) (s : State) : State :=
  if m.ticksOnA then
    let s1 := s.dropTimerRead.writeCcrA (addW s.params.timerW s.timerNow s.params.tickPeriod)
    s1.setBeacon { s1.beacon with ie := setSource s1.beacon.ie .cmpA true }
  else s

/-- TXCLK enabled in mode Tone, NIRQ always, and the mode taken. -/
def startEnable (m : Mode) (s : State) : State :=
  let ie := if m = .tone then setSource s.beacon.ie .txclk true else s.beacon.ie
  s.setBeacon { s.beacon with ie := setSource ie .nirq true, mode := m }

/-- `BEACON_START` after its checks: the radio first where the mode needs it, then the registers. -/
def startMode (m : Mode) (s : State) : Reply × State :=
  let r := if m.setsXmitDirect then enterTarget .xmitDirect s else (⟨.ok, 0#16⟩, s)
  if r.1.status = .ok then
    (⟨.ok, m.code.setWidth 16⟩, startEnable m (startChannelA m (startChannelB (startClear r.2))))
  else r

/-- BEACON_START m (R252): a bad mode is `IllegalOperand(0)`, a running beacon `IllegalOperand(1)`. -/
def execBeaconStart (m : Byte) (s : State) : Host.Outcome State Fault Refusal :=
  answer
    (match Mode.ofOperand m with
    | none => (.illegalOperand, s)
    | some mode =>
      if s.beacon.mode = .off then startMode mode s else (⟨.illegalOperand, 1#16⟩, s))

/-- BEACON_STOP (R258). -/
def execBeaconStop (s : State) : Host.Outcome State Fault Refusal := answer (stopAction s)

/-- BEACON_SERVICE (R260). An empty queue is `Empty`. As one step, the get from `rb[1]` and `SetState` on
its byte, with handlers held off (R69, R70); as micro-steps, G1 of the get, and G2 and G3 are
`mainMicroStep` and the `SetState` that follows is `serviceSetState` (R131). Every block constructed has the
first, as D30 rules; log 10. -/
def execBeaconService (s : State) : Host.Outcome State Fault Refusal :=
  match ringGet .rb1 s with
  | none => answer (⟨.empty, 0#16⟩, s)
  | some (v, t) =>
    match s.params.serviceReading with
    | .oneStep => answer (setState v t)
    | .microSteps => .next ((mainGetCheck .rb1 s).setService .getting)

/-- The last step of a BEACON_SERVICE of micro-steps, one uninterruptible step: `SetState` on the byte got (R260). -/
def serviceSetState (target : Byte) (s : State) : State :=
  let r := setState target (s.setService .idle)
  r.2.finish r.1

/-! ## BEACON_STATUS (R262) -/

/-- The value of each selector, or `none` for a selector above 8 (R262). -/
def statusValue (sel : Byte) (s : State) : Option Half :=
  match sel with
  | 0#8 => some (s.beacon.ie ++ 0#1 ++ s.beacon.mode.code ++ s.beacon.flags)
  | 1#8 => some (s.beacon.wallclock.extractLsb' 0 16)
  | 2#8 => some (s.beacon.wallclock.extractLsb' 16 16)
  | 3#8 =>
    some (0#10 ++ BitVec.ofBool s.beacon.dataPin ++ BitVec.ofBool s.spiFault ++ s.radioState.code)
  | 4#8 => some s.morse.messageCursor
  | 5#8 => some (pair16 s.morse.symbolShift s.morse.keyShift)
  | 6#8 => some (BitVec.ofNat 16 s.pn.reg)
  | 7#8 => some s.pn.periodCounter
  | 8#8 =>
    some (0#10 ++ s.beacon.ip ++ BitVec.ofBool s.pn.complete ++ BitVec.ofBool s.morse.active)
  | _ => none

/-- BEACON_STATUS sel (R262). -/
def execBeaconStatus (sel : Byte) (s : State) : Host.Outcome State Fault Refusal :=
  answer
    (match statusValue sel s with
    | some v => ⟨.ok, v⟩
    | none => .illegalOperand, s)

end Sys2Proof.Machine
end

