-- ==== Sys2Proof/Machine/PnGenerator.lean ====
section
/-! DEFINITION. The Galois LFSR m-sequence generator (44_pn.md). -/

namespace Sys2Proof.Machine

/-- `PnNext(r)` on an n-bit value: one test, one shift, at most one exclusive or, no loop (R231, R243). -/
def pnNext (n gpoly r : Nat) : Nat :=
  if r.testBit 0 then truncW n (((r ^^^ gpoly) >>> 1) ||| 2 ^ (n - 1)) else r >>> 1

/-- `PnStep()`: the chip and the generator after it (R237, R240). Its work is bounded: one `PnNext`, one compare
with the seed and at most one increment, with no loop and no recursion (R243). -/
def pnStep (p : Params) (g : Pn) : Bool × Pn :=
  if g.complete then (false, g)
  else
    let chip := g.reg.testBit (p.pnN - 1)
    let reg := pnNext p.pnN p.pnGpoly g.reg
    if reg = g.seed then
      let count := g.periodCounter + 1#16
      (chip, { g with reg := reg, periodCounter := count, complete := count == p.pnPeriodTarget })
    else (chip, { g with reg := reg })

/-- One `PnStep` of the block's generator (R237). -/
def State.pnStep (s : State) : Bool × State :=
  let r := Sys2Proof.Machine.pnStep s.params s.pn
  (r.1, s.setPn r.2)

/-! ## Commands -/

/-- PN_INIT seed (R235). -/
def execPnInit (seed : Half) (s : State) : Host.Outcome State Fault Refusal :=
  answer
    (if seed = 0#16 ∨ 2 ^ s.params.pnN ≤ seed.toNat then (.illegalOperand, s)
    else
      (⟨.ok, 0#16⟩,
        s.setPn
          { reg := truncW s.params.pnN seed.toNat, seed := truncW s.params.pnN seed.toNat,
            periodCounter := 0#16, complete := false }))

/-- The value `PN_TICK` returns: bit 0 the chip, bit 8 `complete` after the step (R237). -/
def pnTickValue (chip complete : Bool) : Half :=
  (if chip then 0x0001#16 else 0#16) ||| (if complete then 0x0100#16 else 0#16)

/-- PN_TICK (R237). -/
def execPnTick (s : State) : Host.Outcome State Fault Refusal :=
  answer (⟨.ok, pnTickValue s.pnStep.1 s.pnStep.2.pn.complete⟩, s.pnStep.2)

end Sys2Proof.Machine
end

