-- ==== Sys2Proof/Machine/Handlers.lean ====
section
/-! DEFINITION. The four interrupt handlers (60_exceptions.md, R296 to R302). -/

namespace Sys2Proof.Machine

/-- A handler sets a sticky flag (R37, R295). -/
def State.raiseFlag (s : State) (flag : Byte) : State := s.setBeacon (s.beacon.raise flag)

/-- `HandlerStop()` (R299). -/
def handlerStop (s : State) : State :=
  let r := stopAction s
  if r.1.status = .ok then r.2 else r.2.raiseFlag flagIsrRadioError

/-- The request byte of a key value: XmitPacket for key-down, Ready for key-up (R298). -/
def requestByte (b : Bool) : Byte := if b then 8#8 else 5#8

/-- The packet sink: a changed key value is queued as a request; a full queue sets `req_overrun` and the
value is retried at the next tick (R298). -/
def queueKey (b : Bool) (s : State) : State :=
  if b = s.beacon.lastKey then s
  else
    match ringPut .rb1 (requestByte b) s with
    | none => s.raiseFlag flagReqOverrun
    | some s1 => s1.setBeacon { s1.beacon with lastKey := b }

/-- `KeySink(b)` (R298). -/
def keySink (b : Bool) (s : State) : State :=
  if s.beacon.mode.keysPin then s.driveData b
  else if s.beacon.mode.keysQueue then queueKey b s
  else s

/-- "reprogram the compare register": the old compare value plus the period (R297). -/
def reprogramA (s : State) : State :=
  s.writeCcrA (addW s.params.timerW s.beacon.ccrA s.params.tickPeriod)

/-- One Morse tick of the CMP_A handler (R297). -/
def tickMorse (s : State) : State :=
  if s.morse.active then
    match s.morseStep with
    | (.key .done, s1) => handlerStop s1
    | (.key .on, s1) => reprogramA (keySink true s1)
    | (.key .off, s1) => reprogramA (keySink false s1)
    | (.invalid _, s1) => reprogramA (keySink false (s1.raiseFlag flagInvalidChar))
  else handlerStop s

/-- One PN tick of the CMP_A handler: `complete` is tested before stepping (R297). -/
def tickPn (s : State) : State :=
  if s.pn.complete then handlerStop s
  else reprogramA (keySink s.pnStep.1 s.pnStep.2)

/-- One queued-symbol tick of the CMP_A handler (R297). -/
def tickQueue (s : State) : State :=
  match ringGet .rb0 s with
  | none => reprogramA (keySink false (s.raiseFlag flagUnderrun))
  | some (v, s1) =>
    match KeyState.ofByte v with
    | some .off => reprogramA (keySink false s1)
    | some .on => reprogramA (keySink true s1)
    | some .done => handlerStop s1
    | none => reprogramA (keySink false (s1.raiseFlag flagUnderrun))

/-- The CMP_A handler body, selected by `beacon.mode` (R297, R304). -/
def handlerCmpA (s : State) : State :=
  match s.beacon.mode with
  | .morseDirect | .morsePacket => tickMorse s
  | .pnDirect | .pnPacket => tickPn s
  | .queueDirect => tickQueue s
  | .off | .tone | .packet => s

/-- The CMP_B handler body: the wall clock (R300). -/
def handlerCmpB (s : State) : State :=
  let s1 := s.setBeacon { s.beacon with wallclock := s.beacon.wallclock + 1#32 }
  s1.writeCcrB (addW s1.params.timerW s1.beacon.ccrB s1.params.unitPeriod)

/-- The NIRQ handler body: both status registers are read, and "packet sent" returns the radio to Ready
(R301). -/
def handlerNirq (s : State) : State :=
  match busRun [.regRead s.params.radio.regIntStatus1, .regRead s.params.radio.regIntStatus2] s with
  | (some [s1, _], t) =>
    if s1 &&& s.params.radio.bitPksent != 0#8 then
      let r := enterTarget .ready t
      if r.1.status = .ok then r.2 else r.2.raiseFlag flagIsrRadioError
    else t
  | (_, t) => t.raiseFlag flagIsrRadioError

/-- The TXCLK handler body: the audio tone (R302). -/
def handlerTxclk (s : State) : State :=
  if s.beacon.mode = .tone then
    let count := s.beacon.toneCount + 1#16
    if count.toNat = s.params.toneDiv then
      (s.setBeacon { s.beacon with toneCount := 0#16 }).driveData (!s.beacon.dataPin)
    else s.setBeacon { s.beacon with toneCount := count }
  else s

/-- The handler body of a source (R290). -/
def handlerBody (x : Source) (s : State) : State :=
  match x with
  | .cmpA => handlerCmpA s
  | .cmpB => handlerCmpB s
  | .nirq => handlerNirq s
  | .txclk => handlerTxclk s

/-- Taking the interrupt of a source, one step: entry, body, return (R296). -/
def takeInterrupt (x : Source) (s : State) : State := (handlerBody x (s.enterHandler x)).leaveHandler

end Sys2Proof.Machine
end

