-- ==== Sys2Proof/Machine/RegisterIO.lean ====
section
/-! DEFINITION. The four SPI register commands (41_spi_register_io.md). -/

namespace Sys2Proof.Machine

/-- REG_READ addr (R148). -/
def execRegRead (addr : RegAddr) (s : State) : Host.Outcome State Fault Refusal :=
  answer
    (match busRun [.regRead addr] s with
    | (some [v], s1) => (⟨.ok, zext16 v⟩, s1)
    | (_, s1) => (.transportError, s1))

/-- REG_WRITE addr, v (R149). -/
def execRegWrite (addr : RegAddr) (v : Byte) (s : State) : Host.Outcome State Fault Refusal :=
  answer
    (match busRun [.regWrite addr v] s with
    | (some _, s1) => (⟨.ok, 0#16⟩, s1)
    | (none, s1) => (.transportError, s1))

/-- REG_BURST_READ addr, n (R150): XFER is written only after the whole transaction has succeeded. -/
def execRegBurstRead (addr : RegAddr) (n : Byte) (s : State) : Host.Outcome State Fault Refusal :=
  answer
    (if burstCountOk n then
      match busRun [.read addr n.toNat] s with
      | (some bytes, s1) => (⟨.ok, zext16 n⟩, s1.setXfer (Memory.writeAll s1.xfer 0 bytes))
      | (none, s1) => (.transportError, s1)
    else (.illegalOperand, s))

/-- REG_BURST_WRITE addr, n (R151). -/
def execRegBurstWrite (addr : RegAddr) (n : Byte) (s : State) : Host.Outcome State Fault Refusal :=
  answer
    (if burstCountOk n then
      match busRun [.write addr (s.xferBytes n.toNat)] s with
      | (some _, s1) => (⟨.ok, zext16 n⟩, s1)
      | (none, s1) => (.transportError, s1)
    else (.illegalOperand, s))

end Sys2Proof.Machine
end

