-- ==== Sys2Proof/Machine/Dispatch.lean ====
section
/-! DEFINITION. The dispatch from commands to their meanings, one arm per row of the opcode table (R94). -/

namespace Sys2Proof.Machine

/-- The meaning of a command (R94). -/
def exec (i : Instr) (s : State) : Host.Outcome State Fault Refusal :=
  match i with
  | .rbPut k b => Sys2Proof.Machine.execRbPut k b s
  | .rbGet k => Sys2Proof.Machine.execRbGet k s
  | .rbLen k => Sys2Proof.Machine.execRbLen k s
  | .rbPeek k n => Sys2Proof.Machine.execRbPeek k n s
  | .rbIsFull k => Sys2Proof.Machine.execRbIsFull k s
  | .rbIsEmpty k => Sys2Proof.Machine.execRbIsEmpty k s
  | .regRead addr => Sys2Proof.Machine.execRegRead addr s
  | .regWrite addr v => Sys2Proof.Machine.execRegWrite addr v s
  | .regBurstRead addr n => Sys2Proof.Machine.execRegBurstRead addr n s
  | .regBurstWrite addr n => Sys2Proof.Machine.execRegBurstWrite addr n s
  | .radioReset => Sys2Proof.Machine.execRadioReset s
  | .radioCheckId => Sys2Proof.Machine.execRadioCheckId s
  | .radioApplyConfig k => Sys2Proof.Machine.execRadioApplyConfig k s
  | .radioSetState target => Sys2Proof.Machine.execRadioSetState target s
  | .radioLoadPacket n => Sys2Proof.Machine.execRadioLoadPacket n s
  | .morseStart len => Sys2Proof.Machine.execMorseStart len s
  | .morseTick => Sys2Proof.Machine.execMorseTick s
  | .pnInit seed => Sys2Proof.Machine.execPnInit seed s
  | .pnTick => Sys2Proof.Machine.execPnTick s
  | .beaconStart m => Sys2Proof.Machine.execBeaconStart m s
  | .beaconStop => Sys2Proof.Machine.execBeaconStop s
  | .beaconService => Sys2Proof.Machine.execBeaconService s
  | .beaconStatus sel => Sys2Proof.Machine.execBeaconStatus sel s

end Sys2Proof.Machine
end

