-- ==== Sys2Proof/Decode.lean ====
section
/-! DEFINITION. The decoder from command words to commands, and the encoder beside it (R90 to R94, R112). -/

namespace Sys2Proof

/-- Why a command word is illegal (R112). -/
inductive DecodeError where
  /-- The opcode is not in the opcode map (R94). -/
  | unlistedOpcode
  /-- A bit its format requires to be 0 is 1 (R91). -/
  | unusedBitSet
deriving DecidableEq, Repr

/-- What the decoder answers for a command word. -/
inductive Decoded where
  | ok (i : Instr)
  | illegal (e : DecodeError)
deriving DecidableEq, Repr

/-- `cmd[23:16]`, the opcode (R90). -/
def opField (w : Word) : Byte := w.extractLsb' 16 8

/-- `arg[15:8]` (R91). -/
def hiField (w : Word) : Byte := w.extractLsb' 8 8

/-- `arg[7:0]` (R91). -/
def loField (w : Word) : Byte := w.extractLsb' 0 8

/-- `arg[15:0]` (R90). -/
def argField (w : Word) : Half := w.extractLsb' 0 16

/-- `arg[14:8]`, the register address of formats A and AV (R93). -/
def addrField (w : Word) : RegAddr := w.extractLsb' 8 7

/-- Format N: the whole argument must be 0 (R91). -/
def formatN (w : Word) (i : Instr) : Decoded :=
  if argField w = 0#16 then .ok i else .illegal .unusedBitSet

/-- Format B: `arg[15:8]` must be 0; the operand is `arg[7:0]` (R91). -/
def formatB (w : Word) (mk : Byte → Instr) : Decoded :=
  if hiField w = 0#8 then .ok (mk (loField w)) else .illegal .unusedBitSet

/-- Format I: `arg[7:0]` must be 0; the instance id is `arg[15:8]` (R91). -/
def formatI (w : Word) (mk : Byte → Instr) : Decoded :=
  if loField w = 0#8 then .ok (mk (hiField w)) else .illegal .unusedBitSet

/-- Format IB: both argument bytes are operands (R91). -/
def formatIB (w : Word) (mk : Byte → Byte → Instr) : Decoded := .ok (mk (hiField w) (loField w))

/-- Format A: `arg[15]` and `arg[7:0]` must be 0 (R91, R93). -/
def formatA (w : Word) (mk : RegAddr → Instr) : Decoded :=
  if (hiField w).msb = false ∧ loField w = 0#8 then .ok (mk (addrField w)) else .illegal .unusedBitSet

/-- Format AV: `arg[15]` must be 0 (R91, R93). -/
def formatAV (w : Word) (mk : RegAddr → Byte → Instr) : Decoded :=
  if (hiField w).msb = false then .ok (mk (addrField w) (loField w)) else .illegal .unusedBitSet

/-- Format H: the operand is the whole argument (R91). -/
def formatH (w : Word) (mk : Half → Instr) : Decoded := .ok (mk (argField w))

/-- The decoder: total on command words, rejecting by name every word that matches no row of the
opcode table (R94, R112). -/
def decode (w : Word) : Decoded :=
  match opField w with
  | 0x01#8 => formatIB w .rbPut
  | 0x02#8 => formatI w .rbGet
  | 0x03#8 => formatI w .rbLen
  | 0x04#8 => formatIB w .rbPeek
  | 0x05#8 => formatI w .rbIsFull
  | 0x06#8 => formatI w .rbIsEmpty
  | 0x10#8 => formatA w .regRead
  | 0x11#8 => formatAV w .regWrite
  | 0x12#8 => formatAV w .regBurstRead
  | 0x13#8 => formatAV w .regBurstWrite
  | 0x20#8 => formatN w .radioReset
  | 0x21#8 => formatN w .radioCheckId
  | 0x22#8 => formatB w .radioApplyConfig
  | 0x23#8 => formatB w .radioSetState
  | 0x24#8 => formatB w .radioLoadPacket
  | 0x30#8 => formatH w .morseStart
  | 0x31#8 => formatN w .morseTick
  | 0x40#8 => formatH w .pnInit
  | 0x41#8 => formatN w .pnTick
  | 0x50#8 => formatB w .beaconStart
  | 0x51#8 => formatN w .beaconStop
  | 0x52#8 => formatN w .beaconService
  | 0x53#8 => formatB w .beaconStatus
  | _ => .illegal .unlistedOpcode

/-- The instruction the decoder reads from a word whose bits are `w`, numbered as
spec/opcode_table.json numbers them; `nbits` of them are given and the bits above are 0. -/
def decodeTableWord (nbits w : Nat) : Option Instr :=
  match decode (BitVec.ofNat 24 (w % 2 ^ nbits)) with
  | .ok i => some i
  | .illegal _ => none

/-- A word from its opcode and its two argument bytes (R90). -/
def word (op hi lo : Byte) : Word := op ++ hi ++ lo

/-- `arg[15:8]` of formats A and AV: bit 7 is 0, bits 6:0 the register address (R91, R93). -/
def addrByte (a : RegAddr) : Byte := 0#1 ++ a

/-- The command word of a command (R91, R94). -/
def encode (i : Instr) : Word :=
  match i with
  | .rbPut i b => word 0x01#8 i b
  | .rbGet i => word 0x02#8 i 0#8
  | .rbLen i => word 0x03#8 i 0#8
  | .rbPeek i n => word 0x04#8 i n
  | .rbIsFull i => word 0x05#8 i 0#8
  | .rbIsEmpty i => word 0x06#8 i 0#8
  | .regRead a => word 0x10#8 (addrByte a) 0#8
  | .regWrite a v => word 0x11#8 (addrByte a) v
  | .regBurstRead a n => word 0x12#8 (addrByte a) n
  | .regBurstWrite a n => word 0x13#8 (addrByte a) n
  | .radioReset => word 0x20#8 0#8 0#8
  | .radioCheckId => word 0x21#8 0#8 0#8
  | .radioApplyConfig k => word 0x22#8 0#8 k
  | .radioSetState t => word 0x23#8 0#8 t
  | .radioLoadPacket n => word 0x24#8 0#8 n
  | .morseStart len => 0x30#8 ++ len
  | .morseTick => word 0x31#8 0#8 0#8
  | .pnInit seed => 0x40#8 ++ seed
  | .pnTick => word 0x41#8 0#8 0#8
  | .beaconStart m => word 0x50#8 0#8 m
  | .beaconStop => word 0x51#8 0#8 0#8
  | .beaconService => word 0x52#8 0#8 0#8
  | .beaconStatus sel => word 0x53#8 0#8 sel

/-- The mnemonic of a command (R94, R114). -/
def mnemonic (i : Instr) : String :=
  match i with
  | .rbPut _ _ => "RB_PUT"
  | .rbGet _ => "RB_GET"
  | .rbLen _ => "RB_LEN"
  | .rbPeek _ _ => "RB_PEEK"
  | .rbIsFull _ => "RB_ISFULL"
  | .rbIsEmpty _ => "RB_ISEMPTY"
  | .regRead _ => "REG_READ"
  | .regWrite _ _ => "REG_WRITE"
  | .regBurstRead _ _ => "REG_BURST_READ"
  | .regBurstWrite _ _ => "REG_BURST_WRITE"
  | .radioReset => "RADIO_RESET"
  | .radioCheckId => "RADIO_CHECK_ID"
  | .radioApplyConfig _ => "RADIO_APPLY_CONFIG"
  | .radioSetState _ => "RADIO_SET_STATE"
  | .radioLoadPacket _ => "RADIO_LOAD_PACKET"
  | .morseStart _ => "MORSE_START"
  | .morseTick => "MORSE_TICK"
  | .pnInit _ => "PN_INIT"
  | .pnTick => "PN_TICK"
  | .beaconStart _ => "BEACON_START"
  | .beaconStop => "BEACON_STOP"
  | .beaconService => "BEACON_SERVICE"
  | .beaconStatus _ => "BEACON_STATUS"

/-- The operands of a command in the order they are written, as unsigned numbers (R92, R114). -/
def operands (i : Instr) : List Nat :=
  match i with
  | .rbPut i b => [i.toNat, b.toNat]
  | .rbGet i | .rbLen i | .rbIsFull i | .rbIsEmpty i => [i.toNat]
  | .rbPeek i n => [i.toNat, n.toNat]
  | .regRead a => [a.toNat]
  | .regWrite a v => [a.toNat, v.toNat]
  | .regBurstRead a n | .regBurstWrite a n => [a.toNat, n.toNat]
  | .radioReset | .radioCheckId | .morseTick | .pnTick | .beaconStop | .beaconService => []
  | .radioApplyConfig k => [k.toNat]
  | .radioSetState t => [t.toNat]
  | .radioLoadPacket n => [n.toNat]
  | .morseStart len => [len.toNat]
  | .pnInit seed => [seed.toNat]
  | .beaconStart m => [m.toNat]
  | .beaconStatus sel => [sel.toNat]

/-- The written form of a command, operands in decimal (R114). -/
def written (i : Instr) : String :=
  mnemonic i ++ (match operands i with | [] => "" | l => " " ++ ", ".intercalate (l.map toString))

/-- One row of the opcode table: a word `w` matches it when `w` masked equals the pattern (R94, R112). -/
structure OpcodeRow where
  name : String
  pattern : Word
  mask : Word
deriving DecidableEq, Repr

/-- The opcode table (spec/opcode_table.json). -/
def opcodeTable : List OpcodeRow :=
  [ ⟨"RB_PUT", 0x010000#24, 0xFF0000#24⟩,
    ⟨"RB_GET", 0x020000#24, 0xFF00FF#24⟩,
    ⟨"RB_LEN", 0x030000#24, 0xFF00FF#24⟩,
    ⟨"RB_PEEK", 0x040000#24, 0xFF0000#24⟩,
    ⟨"RB_ISFULL", 0x050000#24, 0xFF00FF#24⟩,
    ⟨"RB_ISEMPTY", 0x060000#24, 0xFF00FF#24⟩,
    ⟨"REG_READ", 0x100000#24, 0xFF80FF#24⟩,
    ⟨"REG_WRITE", 0x110000#24, 0xFF8000#24⟩,
    ⟨"REG_BURST_READ", 0x120000#24, 0xFF8000#24⟩,
    ⟨"REG_BURST_WRITE", 0x130000#24, 0xFF8000#24⟩,
    ⟨"RADIO_RESET", 0x200000#24, 0xFFFFFF#24⟩,
    ⟨"RADIO_CHECK_ID", 0x210000#24, 0xFFFFFF#24⟩,
    ⟨"RADIO_APPLY_CONFIG", 0x220000#24, 0xFFFF00#24⟩,
    ⟨"RADIO_SET_STATE", 0x230000#24, 0xFFFF00#24⟩,
    ⟨"RADIO_LOAD_PACKET", 0x240000#24, 0xFFFF00#24⟩,
    ⟨"MORSE_START", 0x300000#24, 0xFF0000#24⟩,
    ⟨"MORSE_TICK", 0x310000#24, 0xFFFFFF#24⟩,
    ⟨"PN_INIT", 0x400000#24, 0xFF0000#24⟩,
    ⟨"PN_TICK", 0x410000#24, 0xFFFFFF#24⟩,
    ⟨"BEACON_START", 0x500000#24, 0xFFFF00#24⟩,
    ⟨"BEACON_STOP", 0x510000#24, 0xFFFFFF#24⟩,
    ⟨"BEACON_SERVICE", 0x520000#24, 0xFFFFFF#24⟩,
    ⟨"BEACON_STATUS", 0x530000#24, 0xFFFF00#24⟩ ]

/-- A word matches a row of the opcode table. -/
def OpcodeRow.accepts (r : OpcodeRow) (w : Word) : Bool := w &&& r.mask == r.pattern

/-- The rows a word matches. -/
def rowsOf (w : Word) : List OpcodeRow := opcodeTable.filter fun r => r.accepts w

end Sys2Proof
end

