-- ==== Sys2Proof/Machine/Schedule.lean ====
section
/-! DEFINITION. Who acts next: event arrivals, block reset, delivery of interrupts before Main's next step, Main's micro-steps and requests (R69, R70, R291, R292). -/

namespace Sys2Proof.Machine

/-- What the coming step does: it is complete, it stops the machine, or it runs a command word with the
state in which the word has been taken from the command port. -/
inductive Action where
  | done (s : State)
  | stop (f : Fault)
  | run (w : Word) (s : State)
deriving DecidableEq, Repr

/-- An occurrence of a source arrives (R291). -/
def State.arrive (s : State) (x : Source) : State := s.setBeacon (s.beacon.arrive x)

/-- Block reset of a running block (R330): every piece of state at its reset value and the trace empty;
the configuration and the inputs in store are outside it, and the free bytes are fresh (log 16). -/
def State.blockReset (s : State) : State := State.afterReset s.params (s.epoch + 1) s.env

/-- The deliverable source that is served first, if any (R292, R294; log 9). -/
def State.nextInterrupt (s : State) : Option Source := s.params.irqOrder.find? fun x => s.beacon.deliverable x

/-- The request Main has just begun leaves the queue. -/
def State.dropRequest (s : State) : State := s.setEnv { s.env with requests := s.env.requests.tail }

/-- The turn now being taken leaves the list. -/
def State.dropTurn (s : State) : State := s.setEnv { s.env with turns := s.env.turns.tail }

/-- A host byte write (R40, R69). -/
def hostWrite (sp : HostSpace) (k : Nat) (v : Byte) (s : State) : State :=
  match sp with
  | .msg => s.setMsg (Memory.write s.msg k v)
  | .xfer => s.setXfer (Memory.write s.xfer k v)

/-- The byte a host read gives: the last byte written (R65). -/
def hostRead (sp : HostSpace) (k : Nat) (s : State) : Byte :=
  match sp with
  | .msg => s.readByte .msg k
  | .xfer => s.readByte .xfer k

/-- Main's next request begins (R69); with none in store NCB waits (R331). A host read changes nothing
(R65). -/
def beginRequest (s : State) : Action :=
  match s.env.requests with
  | [] => .done s
  | .command w :: _ => .run w s.dropRequest
  | .hostWrite sp k v :: _ =>
    if k < s.params.hostSize sp then .done (hostWrite sp k v s.dropRequest) else .stop .noSuchAddress
  | .hostRead sp k :: _ =>
    if k < s.params.hostSize sp then .done s.dropRequest else .stop .noSuchAddress

/-- Main's next step: the micro-step of the ring-buffer command it is in, the `SetState` of a
`BEACON_SERVICE`, or its next request (R131, R260). -/
def mainAction (s : State) : Action :=
  match mainMicroStep s with
  | some t => .done t
  | none =>
    match s.service with
    | .apply target => .done (serviceSetState target s)
    | .idle | .getting => beginRequest s

/-- Main's next step in a `host` turn: the host access it has next, also between the micro-steps of a
command (R40, R69, R95); with no host access next, Main goes on as ever. -/
def hostAction (s : State) : Action :=
  match s.env.requests with
  | .hostWrite _ _ _ :: _ => beginRequest s
  | .hostRead _ _ :: _ => beginRequest s
  | .command _ :: _ => mainAction s
  | [] => mainAction s

/-- A step of NCB in which Main, when it is the one to act, does `main`: a deliverable source is served
before Main's next step (R292). -/
def afterInterrupts (main : State → Action) (s : State) : Action :=
  match s.nextInterrupt with
  | some x => .done (takeInterrupt x s)
  | none => main s

/-- NCB's next step: a deliverable source is served before Main goes on (R292). -/
def ncbAction (s : State) : Action := afterInterrupts mainAction s

/-- The next step of the whole (R69): the turn in store says whether the environment or NCB acts. -/
def nextAction (s : State) : Action :=
  match s.env.turns with
  | .event x :: _ => .done (s.dropTurn.arrive x)
  | .blockReset :: _ => .done s.dropTurn.blockReset
  | .ncb :: _ => ncbAction s.dropTurn
  | .host :: _ => afterInterrupts hostAction s.dropTurn
  | [] => ncbAction s

/-- An illegal command word: `IllegalCommand` with value 0, and only the `Result` event (R112). -/
def illegalCommand (s : State) : State := s.finish ⟨.illegalCommand, 0#16⟩

/-- `s` with a command word where the next step fetches: NCB's turn, nothing in flight, no deliverable
source, and the word at the head of Main's requests (log 11). -/
def State.withCommand (s : State) (w : Word) : State :=
  ((((s.setEnv { s.env with requests := .command w :: s.env.requests, turns := .ncb :: s.env.turns }).setMainRb
      .none).setService .idle).setBeacon { s.beacon with ip := s.beacon.ip &&& ~~~s.beacon.ie })

end Sys2Proof.Machine
end

