-- ==== Sys2Proof/Machine/Step.lean ====
section
/-! DEFINITION. One step of NCB, and where it fetches its next command word (R4, R69). -/

namespace Sys2Proof.Machine

/-- A command word runs: it is decoded and executed, or answered `IllegalCommand` (R90, R112). -/
def runWord (w : Word) (s : State) : Host.Outcome State Fault Refusal :=
  match decode w with
  | .ok i => exec i s
  | .illegal _ => .next (illegalCommand s)

/-- One step: a command or micro-step of Main, a handler, a host access, an event arrival or block reset
(R4, R69). -/
def step (s : State) : Host.Outcome State Fault Refusal :=
  match nextAction s with
  | .done t => .next t
  | .stop f => .fault f
  | .run w t => runWord w t

/-- `s` with the instruction whose bits are `w` on the command port, so that the next step runs it (log
11). -/
def State.withFetchWord (s : State) (nbits w : Nat) : State := s.withCommand (BitVec.ofNat 24 (w % 2 ^ nbits))

end Sys2Proof.Machine
end

