-- ==== Sys2Proof/Safety.lean ====
section
/-! DEFINITION. What a sound state of NCB is, and the terms in which claims speak of transactions, events and queues. -/

namespace Sys2Proof.Machine

/-! ## Memories -/

/-- The four memories are in canonical form (indices strictly rising). -/
abbrev State.MemoryCanonical (s : State) : Prop :=
  Memory.wf s.rb0.buf ∧ Memory.wf s.rb1.buf ∧ Memory.wf s.msg ∧ Memory.wf s.xfer

/-- Every listed index lies inside its space (R40, R62). -/
abbrev State.MemoryInRange (s : State) : Prop :=
  (∀ c ∈ s.rb0.buf, c.1 < s.params.rbCap0) ∧ (∀ c ∈ s.rb1.buf, c.1 < s.params.rbCap1)
    ∧ (∀ c ∈ s.msg, c.1 < s.params.msgSize) ∧ (∀ c ∈ s.xfer, c.1 < Config.xferSize)

/-! ## Ring buffers -/

/-- The invariant of an instance: its indices fit their width and `occupied` is in `[0, CAP]` (R24). -/
abbrev State.RingOk (s : State) (i : RingId) : Prop :=
  (s.ring i).head < 2 ^ s.params.rbW ∧ (s.ring i).tail < 2 ^ s.params.rbW
    ∧ s.occupied i ≤ s.params.rbCap i

/-- What holds of the command in flight between its micro-steps (R131): a put found room at the index it
read, a get found a byte, and the index Main alone writes has not moved. -/
def State.InFlightOk (s : State) : Prop :=
  match s.mainRb with
  | .none => True
  | .put i h _ _ =>
    h < 2 ^ s.params.rbW ∧ subW s.params.rbW h (s.ring i).tail < s.params.rbCap i
      ∧ (i = .rb0 → h = s.rb0.head)
  | .get i t _ =>
    t < 2 ^ s.params.rbW ∧ 1 ≤ subW s.params.rbW (s.ring i).head t
      ∧ subW s.params.rbW (s.ring i).head t ≤ s.params.rbCap i ∧ (i = .rb1 → t = s.rb1.tail)

/-- Both instances are sound and so is the command in flight. -/
def State.RingInv (s : State) : Prop :=
  s.params.legal = true ∧ s.RingOk .rb0 ∧ s.RingOk .rb1 ∧ s.InFlightOk

/-- The bytes an instance holds, oldest first (R133). -/
def State.contents (s : State) (i : RingId) : List Byte :=
  (List.range (s.occupied i)).map fun k => s.ringByte i (addW s.params.rbW (s.ring i).tail k)

/-! ## Generators and registers -/

/-- The message cursor never passes the message, which fits MSG (R22, R62). -/
abbrev State.MorseInv (s : State) : Prop :=
  s.morse.messageCursor.toNat ≤ s.morse.msgLen.toNat ∧ s.morse.msgLen.toNat ≤ s.params.msgSize

/-- The PN registers fit their width; while the generator runs its register and seed are not zero and
the counter is below the target (R31, R238, R241). -/
def State.PnInv (s : State) : Prop :=
  s.params.legal = true ∧ s.pn.reg < 2 ^ s.params.pnN ∧ s.pn.seed < 2 ^ s.params.pnN
    ∧ (s.pn.complete = false →
        s.pn.reg ≠ 0 ∧ s.pn.seed ≠ 0 ∧ s.pn.periodCounter.toNat < s.params.pnPeriodTarget.toNat)

/-- The values `RadioState` can hold (R180). -/
abbrev State.RadioInv (s : State) : Prop :=
  s.radioState = .shutdown ∨ s.radioState = .ready ∨ s.radioState = .xmitDirect
    ∨ s.radioState = .xmitPacket ∨ s.radioState = .recvPacket

/-- The enables agree with the mode: channel A in the modes that tick on it, TXCLK in mode Tone only,
NIRQ in every mode but Off, and channel B in every mode but Off (R251, R297, R302). -/
abbrev State.EnableInv (s : State) : Prop :=
  hasSource s.beacon.ie .cmpA = s.beacon.mode.ticksOnA
    ∧ hasSource s.beacon.ie .txclk = decide (s.beacon.mode = .tone)
    ∧ hasSource s.beacon.ie .nirq = decide (s.beacon.mode ≠ .off)
    ∧ (s.beacon.mode ≠ .off → hasSource s.beacon.ie .cmpB = true)

/-- The compare registers fit `TIMER_W` bits and `tone_count` is below `TONE_DIV` (R36). -/
abbrev State.TimerInv (s : State) : Prop :=
  1 ≤ s.params.toneDiv ∧ s.beacon.ccrA < 2 ^ s.params.timerW ∧ s.beacon.ccrB < 2 ^ s.params.timerW
    ∧ s.beacon.toneCount.toNat < s.params.toneDiv

/-- Bits 7:5 of `beacon.flags` are 0 (R37). -/
abbrev State.FlagsReserved (s : State) : Prop := s.beacon.flags &&& 0xE0#8 = 0x00#8

/-- A step during which block reset is not asserted. -/
abbrev State.NoReset (s : State) : Prop := s.env.turns.head? ≠ some .blockReset

/-! ## The trace -/

/-- The event is an SPI transaction. -/
def TraceEvent.isSpi : TraceEvent → Bool
  | .spi _ _ _ _ => true
  | .pin _ _ | .delay _ | .ccr _ _ | .result _ _ | .irq _ => false

/-- The SPI transactions of the trace, in order. -/
def State.spiEvents (s : State) : List TraceEvent := s.trace.filter TraceEvent.isSpi

/-- The trace events of register writes, in list order (R103, R149). -/
def writeEvents (l : ConfigList) : List TraceEvent := l.map fun e => .spi .wr e.1 [e.2] []

/-- Events appended to the trace in order. -/
def State.log (s : State) (es : List TraceEvent) : State := { s with trace := s.trace ++ es }

/-! ## The bus -/

/-- The next `n` transactions succeed: `spi_fault` is clear and no answer in store for them reports a
failure (R147). -/
abbrev State.BusHealthy (s : State) (n : Nat) : Prop :=
  s.spiFault = false ∧ ∀ a ∈ s.env.answers.take n, a.fails = false

/-- The transport fails the transaction after the next `k`, and no earlier one (R147). -/
def State.FailsAt (s : State) (k : Nat) : Prop :=
  s.spiFault = false ∧ (∀ a ∈ s.env.answers.take k, a.fails = false) ∧
    ∃ a, s.env.answers[k]? = some a ∧ a.fails = true

/-- `s` with the same answers in store and no transport failure among them. -/
def State.healed (s : State) : State :=
  s.setEnv { s.env with answers := s.env.answers.map fun a => { a with fails := false } }

/-- The answers to `n` transactions used up. -/
def State.dropAnswers (s : State) (n : Nat) : State :=
  s.setEnv { s.env with answers := s.env.answers.drop n }

/-- `s` after one successful transaction: its answer used up and the event traced (R141). -/
def State.afterTxn (s : State) (dir : Dir) (addr : RegAddr) (sent received : List Byte) : State :=
  s.dropAnswer.emit (.spi dir addr sent received)

/-- The register writes of a transition, as (address, value) pairs in order (R171 steps 1 to 4). -/
def transitionList (p : Params) (current : RadioState) (t : Target) : ConfigList :=
  (if current.isTxRx then [(p.radio.regOpmode1, p.radio.bitXton)] else [])
    ++ p.modeList t
    ++ [(p.radio.regOpmode2, p.opmode2Idle), (p.radio.regOpmode1, p.opmode1Of t)]

/-! ## Steps -/

/-- NCB acts next and Main is free to begin a request: no turn of the environment, no deliverable
source, nothing in flight. -/
abbrev State.MainFree (s : State) : Prop :=
  s.env.turns = [] ∧ s.nextInterrupt = none ∧ s.mainRb = .none ∧ s.service = .idle

/-- Main makes the host access `r` it has next: it is free and no turn is written down, or a `host` turn
is, whatever Main is in. `s0` is the state with the request begun (R40, R69). -/
def State.MakesHostAccess (s : State) (r : Request) (s0 : State) : Prop :=
  s.nextInterrupt = none ∧ ∃ rest, s.env.requests = r :: rest ∧
    ((s.MainFree ∧ s0 = { s with env := { s.env with requests := rest } }) ∨
      ∃ turns, s.env.turns = .host :: turns ∧
        s0 = { s with env := { s.env with requests := rest, turns := turns } })

/-! ## Ticks -/

/-- What the generator of a mode gives at a tick: the beacon stops, or one key or chip value with the
flags raised on the way (R297). -/
inductive Tick where
  | stop
  | key (value : Bool) (flags : Byte)
deriving DecidableEq, Repr

/-- `CmpATick s k u`: at a CMP_A event in state `s` the generator of the mode is stepped once, leaving
`u`, and gives `k` (R297, R299). A Morse or PN step is the one `MORSE_TICK` or `PN_TICK` makes. -/
inductive CmpATick (s : State) : Tick → State → Prop
  /-- Morse never started, or already done (R299). -/
  | morseIdle (hm : s.beacon.mode = .morseDirect ∨ s.beacon.mode = .morsePacket)
      (ha : s.morse.active = false) : CmpATick s .stop s
  /-- Morse gives Done (R213, R299). -/
  | morseDone (hm : s.beacon.mode = .morseDirect ∨ s.beacon.mode = .morsePacket)
      (ha : s.morse.active = true) (m : Morse)
      (h : exec .morseTick s =
        .next { s with morse := m, trace := s.trace ++ [.result .ok 2#16] }) :
      CmpATick s .stop { s with morse := m }
  /-- Morse gives On. -/
  | morseOn (hm : s.beacon.mode = .morseDirect ∨ s.beacon.mode = .morsePacket)
      (ha : s.morse.active = true) (m : Morse)
      (h : exec .morseTick s =
        .next { s with morse := m, trace := s.trace ++ [.result .ok 1#16] }) :
      CmpATick s (.key true 0x00#8) { s with morse := m }
  /-- Morse gives Off. -/
  | morseOff (hm : s.beacon.mode = .morseDirect ∨ s.beacon.mode = .morsePacket)
      (ha : s.morse.active = true) (m : Morse)
      (h : exec .morseTick s =
        .next { s with morse := m, trace := s.trace ++ [.result .ok 0#16] }) :
      CmpATick s (.key false 0x00#8) { s with morse := m }
  /-- Morse met an unmapped character: key-up, `invalid_char` raised. -/
  | morseInvalid (hm : s.beacon.mode = .morseDirect ∨ s.beacon.mode = .morsePacket)
      (ha : s.morse.active = true) (m : Morse) (c : Half)
      (h : exec .morseTick s =
        .next { s with morse := m, trace := s.trace ++ [.result .invalidCharacter c] }) :
      CmpATick s (.key false 0x04#8) { s with morse := m }
  /-- PN complete before the step (R299). -/
  | pnComplete (hm : s.beacon.mode = .pnDirect ∨ s.beacon.mode = .pnPacket)
      (hc : s.pn.complete = true) : CmpATick s .stop s
  /-- PN gives a chip. -/
  | pnChip (hm : s.beacon.mode = .pnDirect ∨ s.beacon.mode = .pnPacket) (hc : s.pn.complete = false)
      (g : Pn) (v : Half)
      (h : exec .pnTick s = .next { s with pn := g, trace := s.trace ++ [.result .ok v] }) :
      CmpATick s (.key (v.getLsbD 0) 0x00#8) { s with pn := g }
  /-- The symbol queue is empty: key-up, `underrun` raised. -/
  | queueEmpty (hm : s.beacon.mode = .queueDirect) (he : s.isEmpty .rb0 = true) :
      CmpATick s (.key false 0x01#8) s
  /-- The symbol queue gives a byte: 0 or 1 a key value, 2 Done, any other key-up with `underrun`. -/
  | queueByte (hm : s.beacon.mode = .queueDirect) (he : s.isEmpty .rb0 = false) (v : Byte) (k : Tick)
      (hv : v = s.ringByte .rb0 s.rb0.tail)
      (hk : k =
        if v = 0#8 then .key false 0x00#8 else if v = 1#8 then .key true 0x00#8
        else if v = 2#8 then .stop else .key false 0x01#8) :
      CmpATick s k { s with rb0 := { s.rb0 with tail := addW s.params.rbW s.rb0.tail 1 } }

/-! ## Morse -/

/-- The letter code of a string of symbols, dash true and dot false: symbols from bit 7 down, padded with
the complement of the last one (R104). -/
def letterCode (symbols : List Bool) : Byte :=
  let pad := !(symbols.getLast?.getD false)
  BitVec.ofBoolListBE ((symbols ++ List.replicate (8 - symbols.length) pad).take 8) |>.setWidth 8

/-- The units keyed for one symbol, the last of its letter or not (R105, R214). -/
def symbolUnits (dash last : Bool) : List Bool :=
  (if dash then [true, true, true] else [true]) ++ List.replicate (if last then 3 else 1) false

/-- The units keyed for a letter (R214). -/
def letterUnits : List Bool → List Bool
  | [] => []
  | [x] => symbolUnits x true
  | x :: xs => symbolUnits x false ++ letterUnits xs

/-- `k` calls of `MorseStep` in a row, with the outcomes in order. `c` is the byte the cursor points at. -/
def morseRun (p : Params) (c : Byte) : Nat → Morse → List MorseOutcome × Morse
  | 0, m => ([], m)
  | k + 1, m =>
    let r := morseStep p c m
    let rest := morseRun p c k r.2
    (r.1 :: rest.1, rest.2)

/-! ## PN -/

/-- `k` calls of `PnNext` in a row (R231). -/
def pnIterate (n gpoly : Nat) : Nat → Nat → Nat
  | 0, r => r
  | k + 1, r => pnIterate n gpoly k (pnNext n gpoly r)

end Sys2Proof.Machine
end

