-- ==== Sys2Proof/Certificates/Slice0/Obligations.lean ====
section
/-! DEFINITION. The statements about NCB, family by family. -/

open Sys2Proof Sys2Proof.Machine

/-! ## Encoding -/

/-- Decoding the word of a command gives the command back, with every operand at every value (R90, R91,
R93, R94). -/
def Obligations.DecodeOfEncodeIsTheCommand : Prop := ∀ i : Instr, decode (encode i) = .ok i

/-- A legal command word is the encoding of the command it decodes to, so no bit of it is dropped and no
command has two words (R91, R94). -/
def Obligations.EncodeOfDecodeIsTheWord : Prop :=
  ∀ (w : Word) (i : Instr), decode w = .ok i → encode i = w

/-- The opcode table decides: a word that matches a row passes the format check and decodes to a command
of that row's mnemonic; a word that matches none fails the check and is answered `IllegalCommand` with
value 0, and nothing changes but the `Result` event in the trace (R94, R112). -/
def Obligations.OpcodeTableDecides : Prop :=
  (∀ (w : Word) (r : OpcodeRow), r ∈ opcodeTable → w &&& r.mask = r.pattern →
    wordWellFormed w = true ∧ ∃ i : Instr, decode w = .ok i ∧ mnemonic i = r.name) ∧
  (∀ (w : Word) (s : State), (∀ r ∈ opcodeTable, w &&& r.mask ≠ r.pattern) →
    wordWellFormed w = false ∧
    runWord w s = .next { s with trace := s.trace ++ [.result .illegalCommand 0#16] })

/-- Words written out from the encodings decode to the commands they stand for (R91, R94). -/
def Obligations.SampleWordsDecode : Prop :=
  decode 0x010011#24 = .ok (.rbPut 0x00#8 0x11#8) ∧ decode 0x030100#24 = .ok (.rbLen 0x01#8)
    ∧ decode 0x110780#24 = .ok (.regWrite 0x07#7 0x80#8) ∧ decode 0x230005#24 = .ok (.radioSetState 5#8)
    ∧ decode 0x300003#24 = .ok (.morseStart 3#16) ∧ decode 0x400008#24 = .ok (.pnInit 8#16)
    ∧ decode 0x500002#24 = .ok (.beaconStart 2#8) ∧ decode 0x108000#24 = .illegal .unusedBitSet
    ∧ decode 0x14007F#24 = .illegal .unlistedOpcode

/-! ## Steps -/

/-- When Main is free and the word on the command port decodes to a command, the step is that command's
meaning on the state with the word taken from the port and, where the turn was written down, the turn
taken (R4, R69, R90). Requests and turns in store are the model's choice, log 8. -/
def Obligations.StepRunsTheDecodedCommand : Prop :=
  ∀ (s : State) (w : Word) (rest : List Request) (i : Instr),
    s.nextInterrupt = none → s.mainRb = .none → s.service = .idle →
    s.env.requests = .command w :: rest → decode w = .ok i →
    (s.env.turns = [] → step s = exec i { s with env := { s.env with requests := rest } }) ∧
    (∀ x turns, x = .ncb ∨ x = .host → s.env.turns = x :: turns →
      step s = exec i { s with env := { s.env with requests := rest, turns := turns } })

/-- A step stops only at a host access outside its space, which is the model's choice, log 15, and never
refuses. -/
def Obligations.StepStopsOnlyAtAbsentAddress : Prop :=
  ∀ s : State,
    (∀ r, step s ≠ .refused r) ∧
    (∀ f, step s = .fault f → ∃ sp k rest, s.params.hostSize sp ≤ k ∧
      (s.env.requests = .hostRead sp k :: rest ∨ ∃ v, s.env.requests = .hostWrite sp k v :: rest))

/-- Every command answers with a next state: none stops the machine (R280). It ends in that one step, with
exactly one `Result` event, the last event it adds, and leaves nothing in flight, so that no handler comes
between its first action and its `Result` (R69, R70, R90), unless it is a put or get that goes in flight,
which adds none yet (R131); BEACON_SERVICE is among the latter in the reading of R260 only, which no
configuration a block can be built with has (D30; log 10). -/
def Obligations.EveryCommandAnswersOnce : Prop :=
  ∀ (i : Instr) (s : State), ∃ t, exec i s = .next t ∧
    ((t.mainRb = s.mainRb ∧ t.service = s.service ∧
      ∃ es st v, t.trace = s.trace ++ es ++ [.result st v] ∧ (∀ q u, TraceEvent.result q u ∉ es)) ∨
    (t.trace = s.trace ∧ t.mainRb ≠ .none ∧
      ((∃ k b, i = .rbPut k b) ∨ (∃ k, i = .rbGet k) ∨
        (i = .beaconService ∧ s.params.serviceReading = .microSteps ∧ s.params.constructible = false))))

/-- Without block reset the trace is only ever extended (R16). That the configuration is held in State
and never changes, and that the epoch counts block resets only, are the model's choices, logs 1 and 16. -/
def Obligations.TraceOnlyGrowsAndConfigurationStays : Prop :=
  ∀ s t : State, step s = .next t →
    t.params = s.params ∧ (s.NoReset → t.epoch = s.epoch ∧ s.trace <+: t.trace)

/-! ## Reset -/

/-- The values block reset leaves, out of reset and when it is asserted while the block runs, whatever
the state was; the configuration stays (R43, R330). That the inputs in store stay and the epoch counts
is the model's choice, logs 8 and 16. -/
def Obligations.BlockResetLeavesTheResetValues : Prop :=
  (∀ (p : Params) (n : Nat) (e : Env),
    (∀ i, ((State.afterReset p n e).ring i).head = 0 ∧ ((State.afterReset p n e).ring i).tail = 0) ∧
    (State.afterReset p n e).morse = ⟨0x00#8, 0x00#8, 0#16, 0#16, false⟩ ∧
    (State.afterReset p n e).pn = ⟨0, 0, 0#16, true⟩ ∧
    (State.afterReset p n e).radioState = .shutdown ∧ (State.afterReset p n e).spiFault = false ∧
    (State.afterReset p n e).beacon =
      ⟨.off, 0#4, 0#4, false, false, 0#16, 0, 0, 0#32, 0x00#8⟩ ∧
    (State.afterReset p n e).mainRb = .none ∧ (State.afterReset p n e).trace = [] ∧
    (State.afterReset p n e).params = p ∧
    State.reset = State.afterReset defaultParams 0 Env.none) ∧
  (∀ (s : State) (turns : List Turn), s.env.turns = .blockReset :: turns →
    step s = .next (State.afterReset s.params (s.epoch + 1) { s.env with turns := turns }))

/-! ## Ring buffer -/

/-- The wrap-around law: whatever the absolute values, `head -_W tail` is the true occupancy (R134, which
the spec marks as derived from R121 and R25). -/
def Obligations.WrapAroundLaw : Prop :=
  (∀ w cap tail k : Nat, 1 ≤ w → cap ≤ 2 ^ (w - 1) → tail < 2 ^ w → k ≤ cap →
    subW w (addW w tail k) tail = k) ∧
  addW 8 0xFE 1 = 0xFF ∧ addW 8 0xFF 1 = 0x00 ∧ addW 8 0x00 1 = 0x01 ∧ subW 8 0x01 0xFE = 0x03 ∧
  slot 16 0xFE = 14 ∧ slot 16 0xFF = 15 ∧ slot 16 0x00 = 0

/-- How a ring-buffer command fails. An instance id of `RB_COUNT` or above ends each command of the
family with `IllegalOperand`, value 0; the id is `arg[15:8]`. A put into a full instance reports `Full`,
a get from an empty one `Empty`. Nothing changes but the `Result` event (R120, R122, R124). -/
def Obligations.RingCommandFailures : Prop :=
  ∀ (i b : Byte) (s : State),
    (2 ≤ i.toNat →
      ∀ c ∈ [Instr.rbPut i b, .rbGet i, .rbLen i, .rbPeek i b, .rbIsFull i, .rbIsEmpty i],
        hiField (encode c) = i ∧
        exec c s = .next { s with trace := s.trace ++ [.result .illegalOperand 0#16] }) ∧
    (∀ id : RingId, RingId.ofByte i = some id →
      (s.isFull id = true →
        exec (.rbPut i b) s = .next { s with trace := s.trace ++ [.result .full 0#16] }) ∧
      (s.isEmpty id = true →
        exec (.rbGet i) s = .next { s with trace := s.trace ++ [.result .empty 0#16] }))

/-- `RB_PUT` with room: its check puts the locals in flight; uninterrupted, three steps from the command
port store the byte at the head's slot, then publish the head, and answer `Ok(0)`; no other byte and no
other register changes (R122, R131). One request a step is the model's choice, log 8. -/
def Obligations.RbPutStoresThenPublishes : Prop :=
  ∀ (s : State) (i b : Byte) (id : RingId), RingId.ofByte i = some id → s.isFull id = false →
    exec (.rbPut i b) s = .next { s with mainRb := .put id (s.ring id).head b .checked } ∧
    (∀ rest, s.MainFree → s.env.requests = .command (encode (.rbPut i b)) :: rest →
      ∃ t2 t3 : State,
        Sys2Proof.core.run 2 s = .next t2 ∧ Sys2Proof.core.run 3 s = .next t3 ∧
        t2.mainRb = .put id (s.ring id).head b .stored ∧ (t2.ring id).head = (s.ring id).head ∧
        t2.readByte id.space (slot (s.params.rbCap id) (s.ring id).head) = b ∧
        t3 = { (s.setRing id
            { buf := Memory.write (s.ring id).buf (slot (s.params.rbCap id) (s.ring id).head) b
              head := addW s.params.rbW (s.ring id).head 1
              tail := (s.ring id).tail }) with
          trace := s.trace ++ [.result .ok 0#16]
          env := { s.env with requests := rest } } ∧
        (∀ sp k, ¬(sp = id.space ∧ k = slot (s.params.rbCap id) (s.ring id).head) →
          t3.readByte sp k = s.readByte sp k))

/-- `RB_GET` with a byte: its check puts the locals in flight; uninterrupted, three steps from the
command port load the byte at the tail's slot, then publish the tail, and answer `Ok(byte)`; no byte of
memory changes (R124, R131). One request a step is the model's choice, log 8. -/
def Obligations.RbGetLoadsThenPublishes : Prop :=
  ∀ (s : State) (i : Byte) (id : RingId), RingId.ofByte i = some id → s.isEmpty id = false →
    exec (.rbGet i) s = .next { s with mainRb := .get id (s.ring id).tail .checked } ∧
    (∀ rest, s.MainFree → s.env.requests = .command (encode (.rbGet i)) :: rest →
      ∃ t2 t3 : State,
        Sys2Proof.core.run 2 s = .next t2 ∧ Sys2Proof.core.run 3 s = .next t3 ∧
        t2.mainRb = .get id (s.ring id).tail
          (.loaded (s.readByte id.space (slot (s.params.rbCap id) (s.ring id).tail))) ∧
        (t2.ring id).tail = (s.ring id).tail ∧
        t3 = { (s.setRing id
            { buf := (s.ring id).buf
              head := (s.ring id).head
              tail := addW s.params.rbW (s.ring id).tail 1 }) with
          trace := s.trace ++
            [.result .ok ((s.readByte id.space (slot (s.params.rbCap id) (s.ring id).tail)).setWidth 16)]
          env := { s.env with requests := rest } } ∧
        (∀ sp k, t3.readByte sp k = s.readByte sp k))

/-- `RB_LEN`, `RB_ISFULL` and `RB_ISEMPTY` report `head -_W tail`, whether it is the capacity and whether
it is 0; `RB_PEEK` reports the `n`-th byte from the tail when it is stored and `Empty` when it is not.
Nothing changes but the trace (R121, R126, R128, R129, R130). A length of 2^16 or above has no stated
value, log 25. -/
def Obligations.RingQueriesReportWithoutConsuming : Prop :=
  ∀ (s : State) (i n : Byte) (id : RingId), RingId.ofByte i = some id →
    (∃ v : Half, exec (.rbLen i) s = .next { s with trace := s.trace ++ [.result .ok v] } ∧
      (subW s.params.rbW (s.ring id).head (s.ring id).tail < 2 ^ 16 →
        v.toNat = subW s.params.rbW (s.ring id).head (s.ring id).tail)) ∧
    exec (.rbIsFull i) s = .next { s with trace := s.trace ++
      [.result .ok (if subW s.params.rbW (s.ring id).head (s.ring id).tail = s.params.rbCap id
        then 1#16 else 0#16)] } ∧
    exec (.rbIsEmpty i) s = .next { s with trace := s.trace ++
      [.result .ok (if subW s.params.rbW (s.ring id).head (s.ring id).tail = 0
        then 1#16 else 0#16)] } ∧
    (n.toNat < s.occupied id →
      exec (.rbPeek i n) s = .next { s with trace := s.trace ++ [.result .ok
        ((s.readByte id.space (slot (s.params.rbCap id)
          (addW s.params.rbW (s.ring id).tail n.toNat))).setWidth 16)] }) ∧
    (s.occupied id ≤ n.toNat →
      exec (.rbPeek i n) s = .next { s with trace := s.trace ++ [.result .empty 0#16] })

/-- Seen as a queue, a put appends its byte, a get takes the oldest, the other instance is untouched, and
they fail exactly when the queue is at capacity or empty (R133, which the spec marks as derived). These
are the put and get in one piece, as a handler makes them; Main's micro-steps are in RbPutStores…,
RbGetLoads… and RingInvariantKept. -/
def Obligations.RingIsAQueue : Prop :=
  ∀ (s t : State) (i j : RingId) (b : Byte), s.params.legal = true → s.RingOk i → j ≠ i →
    (ringPut i b s = some t → t.contents i = s.contents i ++ [b] ∧ t.contents j = s.contents j) ∧
    (ringPut i b s = none ↔ (s.contents i).length = s.params.rbCap i) ∧
    (ringGet i s = some (b, t) → s.contents i = b :: t.contents i ∧ t.contents j = s.contents j) ∧
    (ringGet i s = none ↔ s.contents i = [])

/-- A handler moves only the tail of `rb[0]` and only stores to and moves the head of `rb[1]`; it leaves
Main's command in flight, MSG, XFER and the environment's requests alone (R24, R73, R296, R310). -/
def Obligations.HandlersKeepTheirRingRoles : Prop :=
  ∀ (x : Source) (s : State),
    (takeInterrupt x s).rb0.buf = s.rb0.buf ∧ (takeInterrupt x s).rb0.head = s.rb0.head ∧
    (takeInterrupt x s).rb1.tail = s.rb1.tail ∧ (takeInterrupt x s).mainRb = s.mainRb ∧
    (takeInterrupt x s).service = s.service ∧ (takeInterrupt x s).msg = s.msg ∧
    (takeInterrupt x s).xfer = s.xfer ∧ (takeInterrupt x s).env.requests = s.env.requests

/-- Every step keeps both instances sound: indices in width, occupancy in `[0, CAP]`, also while a
command of Main is in flight and handlers use the other end (R24, R131, R132). -/
def Obligations.RingInvariantKept : Prop :=
  ∀ s t : State, s.RingInv → step s = .next t → t.RingInv

/-! ## Memory -/

/-- Every step keeps the four memories canonical and inside their spaces (R40, R62). -/
def Obligations.MemoryInvariantKept : Prop :=
  ∀ s t : State, s.params.legal = true → s.MemoryCanonical → s.MemoryInRange → step s = .next t →
    t.params.legal = true ∧ t.MemoryCanonical ∧ t.MemoryInRange

/-- A host write inside MSG or XFER is read back, changes no other byte and nothing else, and a host read
changes nothing; both also between the micro-steps of a command of Main, which stays in flight (R40, R65,
R69). Outside the space they fault, the model's choice, log 15; when Main makes an access is log 8. -/
def Obligations.HostWriteIsReadBack : Prop :=
  ∀ (s s0 : State) (sp : HostSpace) (k : Nat),
    (∀ v, s.MakesHostAccess (.hostWrite sp k v) s0 →
      (k < s.params.hostSize sp → ∃ t, step s = .next t ∧ hostRead sp k t = v ∧
        (∀ sp' k', ¬(sp' = (match sp with | .msg => Space.msg | .xfer => Space.xfer) ∧ k' = k) →
          t.readByte sp' k' = s.readByte sp' k') ∧
        t = { s0 with msg := t.msg, xfer := t.xfer }) ∧
      (s.params.hostSize sp ≤ k → step s = .fault .noSuchAddress)) ∧
    (s.MakesHostAccess (.hostRead sp k) s0 →
      (k < s.params.hostSize sp → step s = .next s0) ∧
      (s.params.hostSize sp ≤ k → step s = .fault .noSuchAddress))

/-! ## SPI registers -/

/-- The SPI address byte: a write to `a` sends `0x80 | a`, a read sends `a` with bit 7 clear, and it is
the first byte on the wire (R98). -/
def Obligations.SpiAddressByte : Prop :=
  ∀ (a : RegAddr) (out received : List Byte),
    addressByte .wr a = 0x80#8 ||| a.setWidth 8 ∧ addressByte .rd a = a.setWidth 8 ∧
    (addressByte .wr a).getLsbD 7 = true ∧ (addressByte .rd a).getLsbD 7 = false ∧
    (∀ d, wireBytes (.spi d a out received) = addressByte d a :: out)

/-- `REG_READ` and `REG_WRITE` on a bus that answers: one transaction each, the byte received returned
by the read; nothing else of NCB changes (R141, R148, R149). Where the byte comes from is the model's
choice, log 5. -/
def Obligations.RegReadAndRegWrite : Prop :=
  ∀ (s : State) (a : RegAddr), s.BusHealthy 1 →
    (∃ v, s.receivedBytes a 1 = [v] ∧
      exec (.regRead a) s = .next { s with
        trace := s.trace ++ [.spi .rd a [0x00#8] [v], .result .ok (v.setWidth 16)]
        env := { s.env with answers := s.env.answers.tail } }) ∧
    (∀ v, exec (.regWrite a v) s = .next { s with
      trace := s.trace ++ [.spi .wr a [v] [], .result .ok 0#16]
      env := { s.env with answers := s.env.answers.tail } })

/-- `REG_BURST_READ` with a count in 1 to 64: one transaction, then `XFER[0..n-1]` holds the bytes
received; no other byte changes (R150). Where the bytes come from is the model's choice, log 5. -/
def Obligations.RegBurstReadFillsXfer : Prop :=
  ∀ (s : State) (a : RegAddr) (n : Byte), s.BusHealthy 1 → 1 ≤ n.toNat → n.toNat ≤ 64 →
    ∃ t, exec (.regBurstRead a n) s = .next t ∧
      t = { s with
        xfer := t.xfer
        trace := s.trace ++ [.spi .rd a (List.replicate n.toNat 0x00#8) (s.receivedBytes a n.toNat),
          .result .ok (n.setWidth 16)]
        env := { s.env with answers := s.env.answers.tail } } ∧
      (s.receivedBytes a n.toNat).length = n.toNat ∧
      (∀ k < n.toNat, (s.receivedBytes a n.toNat)[k]? = some (t.readByte .xfer k)) ∧
      (∀ sp k, ¬(sp = .xfer ∧ k < n.toNat) → t.readByte sp k = s.readByte sp k)

/-- `REG_BURST_WRITE` with a count in 1 to 64: one transaction with `XFER[0..n-1]` in ascending order;
nothing else of NCB changes (R151). -/
def Obligations.RegBurstWriteSendsXfer : Prop :=
  ∀ (s : State) (a : RegAddr) (n : Byte), s.BusHealthy 1 → 1 ≤ n.toNat → n.toNat ≤ 64 →
    exec (.regBurstWrite a n) s = .next { s with
      trace := s.trace ++ [.spi .wr a ((List.range n.toNat).map fun k => s.readByte .xfer k) [],
        .result .ok (n.setWidth 16)]
      env := { s.env with answers := s.env.answers.tail } }

/-- A burst count of 0 or above 64 is `IllegalOperand` and a payload above 64 bytes `PayloadTooLarge`,
with no transaction and nothing else changed (R150, R151, R152, R182, R284, R287). -/
def Obligations.BurstAndPayloadCountsChecked : Prop :=
  ∀ (s : State) (a : RegAddr) (n : Byte),
    (n.toNat = 0 ∨ 64 < n.toNat →
      exec (.regBurstRead a n) s = .next { s with trace := s.trace ++ [.result .illegalOperand 0#16] } ∧
      exec (.regBurstWrite a n) s = .next { s with trace := s.trace ++ [.result .illegalOperand 0#16] }) ∧
    (64 < n.toNat →
      exec (.radioLoadPacket n) s = .next { s with trace := s.trace ++ [.result .payloadTooLarge 0#16] })

/-- A command whose `k+1`-th transaction the transport fails: what it did before stays in the trace, the
failed transaction is traced and sets `spi_fault`, nothing after it happens, and the command ends with
`TransportError`; no other state changes. `es` is what the command traces when nothing fails, and every
command of one step but BEACON_STOP, which is in BeaconStopTells…, is covered; a BEACON_SERVICE of one step
(log 10) has taken its request by then. For the four register commands the failing step is also written
out (R141, R147, R150, R151). A failure is one the environment has in store, the model's choice, log 6. -/
def Obligations.FailedTransactionSetsSpiFault : Prop :=
  (∀ (i : Instr) (s h : State) (es : List TraceEvent) (st : Status) (r : Half) (k : Nat),
    i ≠ .beaconStop → s.FailsAt k → exec i s.healed = .next h →
    h.trace = s.trace ++ es ++ [.result st r] → k < (es.filter TraceEvent.isSpi).length →
    ∃ before failed after, es = before ++ failed :: after ∧ failed.isSpi = true ∧
      (before.filter TraceEvent.isSpi).length = k ∧
      exec i s = .next { s with
        rb1 := if i = .beaconService then h.rb1 else s.rb1
        spiFault := true
        trace := s.trace ++ before ++ [failed, .result .transportError 0#16]
        env := { s.env with answers := s.env.answers.drop (k + 1) } }) ∧
  (∀ (s : State) (a : RegAddr) (v n : Byte), s.FailsAt 0 →
    exec (.regWrite a v) s = .next { s with
      spiFault := true
      trace := s.trace ++ [.spi .wr a [v] [], .result .transportError 0#16]
      env := { s.env with answers := s.env.answers.tail } } ∧
    exec (.regRead a) s = .next { s with
      spiFault := true
      trace := s.trace ++ [.spi .rd a [0x00#8] (s.receivedBytes a 1), .result .transportError 0#16]
      env := { s.env with answers := s.env.answers.tail } } ∧
    (1 ≤ n.toNat → n.toNat ≤ 64 →
      exec (.regBurstRead a n) s = .next { s with
        spiFault := true
        trace := s.trace ++ [.spi .rd a (List.replicate n.toNat 0x00#8) (s.receivedBytes a n.toNat),
          .result .transportError 0#16]
        env := { s.env with answers := s.env.answers.tail } } ∧
      exec (.regBurstWrite a n) s = .next { s with
        spiFault := true
        trace := s.trace ++ [.spi .wr a ((List.range n.toNat).map fun k => s.readByte .xfer k) [],
          .result .transportError 0#16]
        env := { s.env with answers := s.env.answers.tail } }))

/-- Once `spi_fault` is set no step but block reset clears it or adds an SPI transaction (R34, R147,
R355). -/
def Obligations.SpiFaultIsForEver : Prop :=
  ∀ s t : State, s.NoReset → step s = .next t → s.spiFault = true →
    t.spiFault = true ∧ t.spiEvents = s.spiEvents

/-- With `spi_fault` set, every form of a command that would use the bus, but BEACON_STOP, which is in
BeaconStopTells…, ends with `TransportError` and changes nothing but the trace, and so does the `SetState`
of a BEACON_SERVICE, whose request is gone, as its own step or within the command (log 10); operand checks are still reported first, and an empty profile uses no bus (R34, R147,
R286, R293). -/
def Obligations.SpiFaultRefusesTheBus : Prop :=
  ∀ (s : State) (a : RegAddr) (v : Byte), s.spiFault = true →
    (∀ c ∈ [Instr.regRead a, .regWrite a v, .radioReset, .radioCheckId, .radioSetState 5#8,
        .radioSetState 7#8, .radioSetState 8#8, .radioSetState 10#8],
      exec c s = .next { s with trace := s.trace ++ [.result .transportError 0#16] }) ∧
    (1 ≤ v.toNat → v.toNat ≤ 64 → ∀ c ∈ [Instr.regBurstRead a v, .regBurstWrite a v],
      exec c s = .next { s with trace := s.trace ++ [.result .transportError 0#16] }) ∧
    (∀ l, [s.params.profile0, s.params.profile1, s.params.profile2][v.toNat]? = some l →
      exec (.radioApplyConfig v) s = .next { s with trace := s.trace ++
        [if l = [] then .result .ok 0#16 else .result .transportError 0#16] }) ∧
    (v.toNat ≤ 64 →
      exec (.radioLoadPacket v) s = .next { s with trace := s.trace ++ [.result .transportError 0#16] }) ∧
    (64 < v.toNat →
      exec (.radioLoadPacket v) s = .next { s with trace := s.trace ++ [.result .payloadTooLarge 0#16] }) ∧
    (∀ m, Mode.ofOperand v = some m → m.setsXmitDirect = true → s.beacon.mode = .off →
      exec (.beaconStart v) s = .next { s with trace := s.trace ++ [.result .transportError 0#16] }) ∧
    (v ∈ [5#8, 7#8, 8#8, 10#8] → s.env.turns = [] → s.nextInterrupt = none → s.mainRb = .none →
      s.service = .apply v →
      step s = .next { s with
        service := .idle, trace := s.trace ++ [.result .transportError 0#16] }) ∧
    (s.params.serviceReading = .oneStep → s.isEmpty .rb1 = false →
      s.ringByte .rb1 s.rb1.tail ∈ [5#8, 7#8, 8#8, 10#8] →
      exec .beaconService s = .next { s with
        rb1 := { s.rb1 with tail := addW s.params.rbW s.rb1.tail 1 }
        trace := s.trace ++ [.result .transportError 0#16] })

/-! ## Radio driver -/

/-- `RADIO_RESET` on a bus that answers: one software-reset write, one delay, one read of each status
register in order; `Ok` exactly when the power-on-reset flag is set, with both bytes; no state of NCB
changes (R164, R165). That the bytes are those in store is the model's choice, log 5. -/
def Obligations.RadioResetSequence : Prop :=
  ∀ s : State, s.BusHealthy 3 →
    ∃ s1 s2 : Byte,
      exec .radioReset s = .next { s with
        trace := s.trace ++
          [.spi .wr s.params.radio.regOpmode1 [s.params.radio.bitSwres] [], .delay .resetDelay,
            .spi .rd s.params.radio.regIntStatus1 [0x00#8] [s1],
            .spi .rd s.params.radio.regIntStatus2 [0x00#8] [s2],
            .result (if s2 &&& s.params.radio.bitPor ≠ 0#8 then .ok else .porTimeout) (s1 ++ s2)]
        env := { s.env with answers := s.env.answers.drop 3 } } ∧
      (∀ a0 a1 a2 l, s.env.answers = a0 :: ⟨[a1], false⟩ :: ⟨[a2], false⟩ :: l → s1 = a1 ∧ s2 = a2)

/-- `RADIO_CHECK_ID` on a bus that answers: both registers are read, type first; `Ok` exactly when both
bytes are the expected constants; both bytes returned; no state of NCB changes (R167). That the bytes are those in store is the model's choice, log 5. -/
def Obligations.RadioCheckIdSequence : Prop :=
  ∀ s : State, s.BusHealthy 2 →
    ∃ ty ver : Byte,
      exec .radioCheckId s = .next { s with
        trace := s.trace ++
          [.spi .rd s.params.radio.regDeviceType [0x00#8] [ty],
            .spi .rd s.params.radio.regDeviceVersion [0x00#8] [ver],
            .result (if ty = s.params.radio.idDeviceType ∧ ver = s.params.radio.idDeviceVersion
              then .ok else .identityMismatch) (ty ++ ver)]
        env := { s.env with answers := s.env.answers.drop 2 } } ∧
      (∀ a0 a1 l, s.env.answers = ⟨[a0], false⟩ :: ⟨[a1], false⟩ :: l → ty = a0 ∧ ver = a1)

/-- `RADIO_APPLY_CONFIG` writes every entry of the profile in list order and returns their number; a
profile number of 3 or above is `IllegalOperand`; `RadioState` and all other state of NCB stay (R169). A
number of 2^16 or above has no stated value, log 25. -/
def Obligations.ApplyConfigWritesTheProfile : Prop :=
  ∀ (s : State) (k : Byte),
    (∀ l, [s.params.profile0, s.params.profile1, s.params.profile2][k.toNat]? = some l →
      s.BusHealthy l.length →
      ∃ v : Half, (l.length < 2 ^ 16 → v.toNat = l.length) ∧
        exec (.radioApplyConfig k) s = .next { s with
          trace := s.trace ++ (l.map fun e => TraceEvent.spi .wr e.1 [e.2] []) ++ [.result .ok v]
          env := { s.env with answers := s.env.answers.drop l.length } }) ∧
    (3 ≤ k.toNat →
      exec (.radioApplyConfig k) s = .next { s with trace := s.trace ++ [.result .illegalOperand 0#16] })

/-- `RADIO_SET_STATE` to an accepted target on a bus that answers: the writes of the transition in
order, then `RadioState`, and `Ok` with the code; nothing else of NCB changes (R171, R172). -/
def Obligations.SetStateMakesTheTransition : Prop :=
  ∀ (s : State) (b : Byte) (r : RadioState) (t : Target), RadioState.ofByte b = some r →
    r.target = some t → s.BusHealthy (transitionList s.params s.radioState t).length →
    exec (.radioSetState b) s = .next { s with
      radioState := r
      trace := s.trace ++ writeEvents (transitionList s.params s.radioState t) ++
        [.result .ok (b.setWidth 16)]
      env := { s.env with
        answers := s.env.answers.drop (transitionList s.params s.radioState t).length } }

/-- A `RADIO_SET_STATE` that does not complete leaves `RadioState` as it was: the seven targets without
a transition answer `NotImplemented`, codes of 11 and above `IllegalOperand`, both without a transaction;
a transition whose `k+1`-th write the transport fails makes the writes up to that one, no later one, and
answers `TransportError` with `spi_fault` set; and wherever `TransportError` is the answer, `RadioState`
stays (R147, R172, R178, R179). A failure is one the environment has in store, log 6. -/
def Obligations.FailedSetStateKeepsRadioState : Prop :=
  ∀ (s : State) (b : Byte),
    (b ∈ [0#8, 1#8, 2#8, 3#8, 4#8, 6#8, 9#8] →
      exec (.radioSetState b) s = .next { s with trace := s.trace ++ [.result .notImplemented 0#16] }) ∧
    (11 ≤ b.toNat →
      exec (.radioSetState b) s = .next { s with trace := s.trace ++ [.result .illegalOperand 0#16] }) ∧
    (∀ (r : RadioState) (g : Target) (k : Nat), RadioState.ofByte b = some r → r.target = some g →
      s.FailsAt k → k < (transitionList s.params s.radioState g).length →
      exec (.radioSetState b) s = .next { s with
        spiFault := true
        trace := s.trace ++ writeEvents ((transitionList s.params s.radioState g).take (k + 1)) ++
          [.result .transportError 0#16]
        env := { s.env with answers := s.env.answers.drop (k + 1) } }) ∧
    (∀ t, exec (.radioSetState b) s = .next t → t.trace.getLast? = some (.result .transportError 0#16) →
      t.radioState = s.radioState ∧ t.spiFault = true)

/-- Leaving a transmit or receive state, a `RADIO_SET_STATE` to an accepted target puts on the bus the
write that drops both enables first, then writes that leave operating-mode register 1 alone, then the one
write that asserts the next state's bits, so these never overlap the old ones; after a transport failure
only a part of these from the first on, and all of them where none fails (R171, R173, R177). -/
def Obligations.TransitionsDoNotOverlap : Prop :=
  ∀ (s t : State) (b : Byte) (r : RadioState) (g : Target), s.params.legal = true →
    s.params.radio.regOpmode1 ≠ s.params.radio.regOpmode2 → s.radioState.isTxRx = true →
    RadioState.ofByte b = some r → r.target = some g → exec (.radioSetState b) s = .next t →
    ∃ es middle : List TraceEvent,
      t.spiEvents = s.spiEvents ++ es ∧
      (∀ d sent received, TraceEvent.spi d s.params.radio.regOpmode1 sent received ∉ middle) ∧
      es <+: .spi .wr s.params.radio.regOpmode1 [s.params.radio.bitXton] [] :: middle ++
        [.spi .wr s.params.radio.regOpmode1 [s.params.opmode1Of g] []] ∧
      (t.spiFault = false →
        es = .spi .wr s.params.radio.regOpmode1 [s.params.radio.bitXton] [] :: middle ++
          [.spi .wr s.params.radio.regOpmode1 [s.params.opmode1Of g] []])

/-- From every state `SetState(Ready)` results in `Ready`; the last writes to the bus put `OPMODE2_IDLE`
in operating-mode register 2 and only the crystal-on bit in operating-mode register 1, with transmit and
receive enable clear in the default register table (R174). -/
def Obligations.SetStateReadyFromEveryState : Prop :=
  (∀ s : State, s.BusHealthy 3 →
    ∃ t, exec (.radioSetState 5#8) s = .next t ∧ t.radioState = .ready ∧
      [.spi .wr s.params.radio.regOpmode2 [s.params.opmode2Idle] [],
        .spi .wr s.params.radio.regOpmode1 [s.params.radio.bitXton] []] <:+ t.spiEvents) ∧
  defaultRadioMap.bitXton &&& (defaultRadioMap.bitTxon ||| defaultRadioMap.bitRxon) = 0x00#8

/-- Every step keeps `RadioState` among the five values it can hold, and a step that changes it without
block reset moves it to one of the four accepted targets (R33, R180, the latter derived by the spec
from R171, R178 and R179). -/
def Obligations.RadioStateReachable : Prop :=
  State.reset.RadioInv ∧
  ∀ s t : State, s.RadioInv → step s = .next t →
    t.RadioInv ∧ (s.NoReset → t.radioState ≠ s.radioState → ∃ g : Target, t.radioState = g.state)

/-- `RADIO_LOAD_PACKET` with at most 64 bytes on a bus that answers: FIFO clear set and released, the
length, the payload in one burst when there is any, the two enables, the two draining reads; `Ok(n)`; no
state of NCB changes (R182). -/
def Obligations.LoadPacketSequence : Prop :=
  ∀ (s : State) (n : Byte), n.toNat ≤ 64 → s.BusHealthy 8 →
    ∃ x y : Byte,
      exec (.radioLoadPacket n) s = .next { s with
        trace := s.trace ++
          [.spi .wr s.params.radio.regOpmode2 [s.params.opmode2Idle ||| s.params.radio.bitFfclrtx] [],
            .spi .wr s.params.radio.regOpmode2 [s.params.opmode2Idle] [],
            .spi .wr s.params.radio.regPktLen [n] []] ++
          (if n = 0#8 then [] else
            [.spi .wr s.params.radio.regFifo ((List.range n.toNat).map fun k => s.readByte .xfer k) []]) ++
          [.spi .wr s.params.radio.regIntEnable1 [s.params.radio.bitPksent] [],
            .spi .wr s.params.radio.regIntEnable2 [0x00#8] [],
            .spi .rd s.params.radio.regIntStatus1 [0x00#8] [x],
            .spi .rd s.params.radio.regIntStatus2 [0x00#8] [y],
            .result .ok (n.setWidth 16)]
        env := { s.env with answers := s.env.answers.drop (if n = 0#8 then 7 else 8) } }

/-! ## Morse -/

/-- `MORSE_START`: a length above `MSG_SIZE` is refused; otherwise the cursor is 0, both shift registers
exhausted, the generator active, and nothing else changes (R203). -/
def Obligations.MorseStartArmsTheGenerator : Prop :=
  ∀ (s : State) (len : Half),
    (len.toNat ≤ s.params.msgSize →
      exec (.morseStart len) s = .next { s with
        morse := ⟨0x00#8, 0x00#8, 0#16, len, true⟩
        trace := s.trace ++ [.result .ok 0#16] }) ∧
    (s.params.msgSize < len.toNat →
      exec (.morseStart len) s = .next { s with trace := s.trace ++ [.result .illegalOperand 0#16] })

/-- `MORSE_TICK` on a live generator. Key pattern live: bit 7 is keyed out and the pattern shifted. Key
pattern used up and symbols left: the next symbol is taken, its pattern loaded, the last of a letter
with the letter gap, and its first unit, which is On, keyed out. Nothing else changes (R205, R207,
R208). -/
def Obligations.MorseTickKeysOneUnit : Prop :=
  ∀ s : State, s.morse.active = true →
    (exhausted s.morse.keyShift = false →
      exec .morseTick s = .next { s with
        morse := { s.morse with keyShift := shlSticky s.morse.keyShift }
        trace := s.trace ++
          [.result .ok (if s.morse.keyShift.getLsbD 7 then 1#16 else 0#16)] }) ∧
    (exhausted s.morse.keyShift = true → exhausted s.morse.symbolShift = false →
      exec .morseTick s = .next { s with
        morse := { s.morse with
          symbolShift := shlSticky s.morse.symbolShift
          keyShift :=
            if s.morse.symbolShift.getLsbD 7 then
              (if exhausted (shlSticky s.morse.symbolShift) then 0xC7#8 else 0xDF#8)
            else (if exhausted (shlSticky s.morse.symbolShift) then 0x1F#8 else 0x7F#8) }
        trace := s.trace ++ [.result .ok 1#16] })

/-- `MORSE_TICK` with both shift registers used up and characters left reads `MSG[cursor]` and advances
the cursor. A letter: its first unit, On, is keyed in the same call. A word space, or an unmapped
character under that policy: the first of four Off units. An unmapped character under the `Error`
policy: `InvalidCharacter` with the character, nothing keyed (R209, R211, R212). -/
def Obligations.MorseTickFetchesTheNextCharacter : Prop :=
  ∀ (s : State) (c : Byte), s.morse.active = true → exhausted s.morse.keyShift = true →
    exhausted s.morse.symbolShift = true → s.morse.messageCursor ≠ s.morse.msgLen →
    s.readByte .msg s.morse.messageCursor.toNat = c →
    (∀ v, morseLookup s.params.morseTable c = .code v →
      exec .morseTick s = .next { s with
        morse := { s.morse with
          messageCursor := s.morse.messageCursor + 1#16
          symbolShift := shlSticky v
          keyShift :=
            if v.getLsbD 7 then (if exhausted (shlSticky v) then 0xC7#8 else 0xDF#8)
            else (if exhausted (shlSticky v) then 0x1F#8 else 0x7F#8) }
        trace := s.trace ++ [.result .ok 1#16] }) ∧
    (morseLookup s.params.morseTable c = .wordSpace ∨
        (morseLookup s.params.morseTable c = .unmapped ∧ s.params.morseUnmapped = .wordSpace) →
      exec .morseTick s = .next { s with
        morse := { s.morse with
          messageCursor := s.morse.messageCursor + 1#16
          keyShift := 0x1F#8 }
        trace := s.trace ++ [.result .ok 0#16] }) ∧
    (morseLookup s.params.morseTable c = .unmapped ∧ s.params.morseUnmapped = .error →
      exec .morseTick s = .next { s with
        morse := { s.morse with messageCursor := s.morse.messageCursor + 1#16 }
        trace := s.trace ++ [.result .invalidCharacter (c.setWidth 16)] })

/-- At the end of the message `MORSE_TICK` returns Done and clears `active`, keying nothing; an idle
generator returns Off and writes nothing, so Done comes once and every later call is idle; block reset
leaves the generator idle (R206, R213). -/
def Obligations.MorseDoneOnceThenIdle : Prop :=
  ∀ s : State,
    (s.morse.active = true → exhausted s.morse.keyShift = true → exhausted s.morse.symbolShift = true →
      s.morse.messageCursor = s.morse.msgLen →
      exec .morseTick s = .next { s with
        morse := { s.morse with active := false }
        trace := s.trace ++ [.result .ok 2#16] }) ∧
    (s.morse.active = false →
      exec .morseTick s = .next { s with trace := s.trace ++ [.result .ok 0#16] }) ∧
    (∀ (p : Params) (n : Nat) (e : Env), (State.afterReset p n e).morse.active = false)

/-- A letter is keyed exactly as its dots and dashes: with `d` dots and `h` dashes in `2d + 4h + 2`
calls, the first of which fetches it, a dot one On unit, a dash three, one Off unit between symbols and
three after the last; the generator then has both registers used up and has read that one character. The
same holds of a letter already in `symbol_shift`, which no call fetches (R104, R105, R209, R214, R215; the
spec derives the tick count). -/
def Obligations.MorseLetterIsKeyedExactly : Prop :=
  ∀ (symbols : List Bool) (p : Params) (c : Byte) (m : Morse), symbols ≠ [] → symbols.length ≤ 7 →
    m.active = true → exhausted m.keyShift = true →
    (letterUnits symbols).length = 2 * symbols.count false + 4 * symbols.count true + 2 ∧
    ∀ cursor : Half,
      (exhausted m.symbolShift = true ∧ m.messageCursor ≠ m.msgLen ∧
          morseLookup p.morseTable c = .code (letterCode symbols) ∧ cursor = m.messageCursor + 1#16) ∨
        (m.symbolShift = letterCode symbols ∧ cursor = m.messageCursor) →
      (morseRun p c (letterUnits symbols).length m).1 =
        (letterUnits symbols).map (fun b => MorseOutcome.key (if b then .on else .off)) ∧
      exhausted (morseRun p c (letterUnits symbols).length m).2.keyShift = true ∧
      exhausted (morseRun p c (letterUnits symbols).length m).2.symbolShift = true ∧
      (morseRun p c (letterUnits symbols).length m).2.messageCursor = cursor ∧
      (morseRun p c (letterUnits symbols).length m).2.msgLen = m.msgLen ∧
      (morseRun p c (letterUnits symbols).length m).2.active = true

/-- Every step keeps the message cursor within the message and the message within MSG (R22, R62). -/
def Obligations.MorseCursorInvariantKept : Prop :=
  State.reset.MorseInv ∧ ∀ s t : State, s.MorseInv → step s = .next t → t.MorseInv

/-! ## PN -/

/-- `PN_INIT` latches a nonzero seed of at most `PN_N` bits and starts the generator; any other seed is
`IllegalOperand`. `PN_TICK` on a running generator returns the top bit from before the shift; a full
return to the seed counts a period and at the target completes, so that a call is one `PnNext`, one
compare and at most one increment (R243); a stopped generator returns chip 0 with
the complete bit and changes nothing. Neither changes anything else (R235, R237, R240). -/
def Obligations.PnInitAndTick : Prop :=
  ∀ s : State,
    (∀ seed : Half, seed ≠ 0#16 → seed.toNat < 2 ^ s.params.pnN →
      exec (.pnInit seed) s = .next { s with
        pn := ⟨seed.toNat, seed.toNat, 0#16, false⟩
        trace := s.trace ++ [.result .ok 0#16] }) ∧
    (∀ seed : Half, seed = 0#16 ∨ 2 ^ s.params.pnN ≤ seed.toNat →
      exec (.pnInit seed) s = .next { s with trace := s.trace ++ [.result .illegalOperand 0#16] }) ∧
    (s.pn.complete = false →
      (pnNext s.params.pnN s.params.pnGpoly s.pn.reg ≠ s.pn.seed →
        exec .pnTick s = .next { s with
          pn := { s.pn with reg := pnNext s.params.pnN s.params.pnGpoly s.pn.reg }
          trace := s.trace ++
            [.result .ok (if s.pn.reg.testBit (s.params.pnN - 1) then 0x0001#16 else 0x0000#16)] }) ∧
      (pnNext s.params.pnN s.params.pnGpoly s.pn.reg = s.pn.seed →
        exec .pnTick s = .next { s with
          pn := ⟨s.pn.seed, s.pn.seed, s.pn.periodCounter + 1#16,
            decide (s.pn.periodCounter + 1#16 = s.params.pnPeriodTarget)⟩
          trace := s.trace ++
            [.result .ok
              ((if s.pn.reg.testBit (s.params.pnN - 1) then 0x0001#16 else 0x0000#16) |||
                (if s.pn.periodCounter + 1#16 = s.params.pnPeriodTarget
                  then 0x0100#16 else 0x0000#16))] })) ∧
    (s.pn.complete = true →
      exec .pnTick s = .next { s with trace := s.trace ++ [.result .ok 0x0100#16] })

/-- `PnNext` on n-bit values: an even value is halved, and an odd one is halved and toggled with
`T = ((PN_GPOLY >> 1) & (2^(n-1) - 1)) | 2^(n-1)`, so a call is one
test, one shift and at most one exclusive or (R243) and only bits n-1 down to 1 of the polynomial matter; it
is a permutation that fixes zero, so no running register reaches zero; its top bit shows which branch was
taken; every value comes back after at most `2^n - 1` steps (R231, R233, R234, R238, the last three derived
by the spec from R231). -/
def Obligations.PnNextIsAPermutation : Prop :=
  ∀ n g : Nat, 1 ≤ n →
    pnNext n g 0 = 0 ∧
    (∀ r, r < 2 ^ n → r % 2 = 0 → pnNext n g r = r >>> 1) ∧
    (∀ r, r < 2 ^ n → r % 2 = 1 →
      pnNext n g r = (r >>> 1) ^^^ (((g >>> 1) &&& (2 ^ (n - 1) - 1)) ||| 2 ^ (n - 1))) ∧
    (∀ r, r < 2 ^ n → pnNext n g r < 2 ^ n ∧ (pnNext n g r).testBit (n - 1) = r.testBit 0) ∧
    (∀ r q, r < 2 ^ n → q < 2 ^ n → pnNext n g r = pnNext n g q → r = q) ∧
    (∀ y, y < 2 ^ n → ∃ r, r < 2 ^ n ∧ pnNext n g r = y) ∧
    (∀ r, r < 2 ^ n → r ≠ 0 → pnNext n g r ≠ 0) ∧
    (∀ r, r < 2 ^ n → ∃ k, 1 ≤ k ∧ k ≤ 2 ^ n - 1 ∧ pnIterate n g k r = r) ∧
    (∀ h r, r < 2 ^ n → (∀ k, 1 ≤ k → k < n → h.testBit k = g.testBit k) →
      pnNext n h r = pnNext n g r)

/-- The period law for every default polynomial: from any nonzero seed the register returns after
exactly `2^n - 1` calls and meets every nonzero state exactly once before (R232, R239; the spec derives
R239 from R232 and R234). -/
def Obligations.PnPeriodIsMaximal : Prop :=
  ∀ n ∈ [3, 4, 5, 6, 7, 8, 10, 12], ∀ seed, 0 < seed → seed < 2 ^ n →
    pnIterate n (defaultGpoly n) (2 ^ n - 1) seed = seed ∧
    ∀ r, 0 < r → r < 2 ^ n → ∃! k, k < 2 ^ n - 1 ∧ pnIterate n (defaultGpoly n) k seed = r

/-- Every step keeps the PN registers in width and, while the generator runs, its register and seed
nonzero and its counter below the target (R31, R238, R241). -/
def Obligations.PnInvariantKept : Prop := ∀ s t : State, s.PnInv → step s = .next t → t.PnInv

/-! ## Orchestrator commands -/

/-- `BEACON_START` of a mode while Off, on a bus that answers where the mode needs it: the radio first,
the pin low, stale events dropped, channel B armed once, one unit period after the timer's reading,
channel A where the mode ticks on it, one tick period after the next reading, the enables of the mode's
row, and the mode; the rest of NCB is unchanged (R251, R252). Which readings the timer gives is the
environment's script, log 7. -/
def Obligations.BeaconStartArmsTheMode : Prop :=
  ∀ (s : State) (b : Byte) (m : Mode), Mode.ofOperand b = some m → s.beacon.mode = .off →
    (m.setsXmitDirect = true →
      s.BusHealthy (transitionList s.params s.radioState .xmitDirect).length) →
    ∃ (t : State) (nowA nowB : Nat), exec (.beaconStart b) s = .next t ∧
      nowA < 2 ^ s.params.timerW ∧ nowB < 2 ^ s.params.timerW ∧
      (∀ x l, s.env.timerReads = x :: l → hasSource s.beacon.ie .cmpB = false →
        nowB = x % 2 ^ s.params.timerW) ∧
      (∀ x y l, s.env.timerReads = x :: y :: l →
        nowA = (if hasSource s.beacon.ie .cmpB then x else y) % 2 ^ s.params.timerW) ∧
      t = { s with
        radioState := if m.setsXmitDirect then .xmitDirect else s.radioState
        beacon := t.beacon, trace := t.trace
        env := { s.env with answers := t.env.answers, timerReads := t.env.timerReads } } ∧
      t.beacon.mode = m ∧ t.beacon.dataPin = false ∧ t.beacon.lastKey = false ∧
      t.beacon.toneCount = 0#16 ∧ t.beacon.wallclock = s.beacon.wallclock ∧
      t.beacon.flags = s.beacon.flags ∧
      hasSource t.beacon.ie .cmpA = (hasSource s.beacon.ie .cmpA || m.ticksOnA) ∧
      hasSource t.beacon.ie .cmpB = true ∧ hasSource t.beacon.ie .nirq = true ∧
      hasSource t.beacon.ie .txclk = (hasSource s.beacon.ie .txclk || decide (m = .tone)) ∧
      hasSource t.beacon.ip .cmpA = false ∧ hasSource t.beacon.ip .nirq = false ∧
      hasSource t.beacon.ip .txclk = false ∧
      hasSource t.beacon.ip .cmpB = hasSource s.beacon.ip .cmpB ∧
      t.beacon.ccrB =
        (if hasSource s.beacon.ie .cmpB then s.beacon.ccrB
        else addW s.params.timerW nowB s.params.unitPeriod) ∧
      t.beacon.ccrA =
        (if m.ticksOnA then addW s.params.timerW nowA s.params.tickPeriod else s.beacon.ccrA) ∧
      t.trace = s.trace ++
        (if m.setsXmitDirect then
          writeEvents (transitionList s.params s.radioState .xmitDirect) else []) ++
        [.pin .data false] ++
        (if hasSource s.beacon.ie .cmpB then [] else [.ccr .b t.beacon.ccrB]) ++
        (if m.ticksOnA then [.ccr .a t.beacon.ccrA] else []) ++ [.result .ok (b.setWidth 16)]

/-- `BEACON_START` with no mode or while running is refused with value 0 or 1, and changes nothing but
the trace (R252, R287). -/
def Obligations.BeaconStartRefusals : Prop :=
  ∀ (s : State) (b : Byte),
    (b = 0#8 ∨ 7 < b.toNat →
      exec (.beaconStart b) s = .next { s with trace := s.trace ++ [.result .illegalOperand 0#16] }) ∧
    (b ≠ 0#8 → b.toNat ≤ 7 → s.beacon.mode ≠ .off →
      exec (.beaconStart b) s = .next { s with trace := s.trace ++ [.result .illegalOperand 1#16] })

/-- `BEACON_STOP`, in any mode: on a bus that answers the radio is put to Ready first; then, also when
the bus is dead or fails at the `k+1`-th write, the three sources are masked, the pin driven low and the
mode Off; channel B, the pending bits and all else stay (R256, R258, R355). A failure is one the
environment has in store, log 6. -/
def Obligations.BeaconStopTellsTheRadioThenMasks : Prop :=
  ∀ s : State,
    (s.BusHealthy (transitionList s.params s.radioState .ready).length →
      exec .beaconStop s = .next { s with
        radioState := .ready
        beacon := { s.beacon with
          mode := .off, dataPin := false, ie := s.beacon.ie &&& 0b0010#4 }
        trace := s.trace ++ writeEvents (transitionList s.params s.radioState .ready) ++
          [.pin .data false, .result .ok 5#16]
        env := { s.env with
          answers := s.env.answers.drop (transitionList s.params s.radioState .ready).length } }) ∧
    (∀ k, s.FailsAt k → k < (transitionList s.params s.radioState .ready).length →
      exec .beaconStop s = .next { s with
        spiFault := true
        beacon := { s.beacon with
          mode := .off, dataPin := false, ie := s.beacon.ie &&& 0b0010#4 }
        trace := s.trace ++ writeEvents ((transitionList s.params s.radioState .ready).take (k + 1)) ++
          [.pin .data false, .result .transportError 0#16]
        env := { s.env with answers := s.env.answers.drop (k + 1) } }) ∧
    (s.spiFault = true →
      exec .beaconStop s = .next { s with
        beacon := { s.beacon with
          mode := .off, dataPin := false, ie := s.beacon.ie &&& 0b0010#4 }
        trace := s.trace ++ [.pin .data false, .result .transportError 0#16] })

/-- `BEACON_SERVICE`: an empty queue answers `Empty`; otherwise it consumes the oldest request and ends as
`SetState` on it ends. In the reading of R69, R70 and the ruling D30, which every block constructed has,
that is one step, and no step leaves Main inside it, so that no handler, arrival or host access comes
between its first action and its `Result`. In the reading of R260 its get from `rb[1]` goes in flight, its
last step is the `SetState`, which is one step, and uninterrupted it is four steps from the command port.
That D30 decides between the two is the model's choice, log 10 (R69, R70, R131, R260). -/
def Obligations.BeaconServiceServesOneRequest : Prop :=
  ∀ s : State,
    (s.isEmpty .rb1 = true →
      exec .beaconService s = .next { s with trace := s.trace ++ [.result .empty 0#16] }) ∧
    (s.isEmpty .rb1 = false →
      (s.params.serviceReading = .oneStep →
        exec .beaconService s = exec (.radioSetState (s.ringByte .rb1 s.rb1.tail))
          { s with rb1 := { s.rb1 with tail := addW s.params.rbW s.rb1.tail 1 } }) ∧
      (s.params.serviceReading = .microSteps →
        exec .beaconService s = .next { s with
          mainRb := .get .rb1 s.rb1.tail .checked, service := .getting }) ∧
      ∀ rest, s.MainFree → s.env.requests = .command (encode .beaconService) :: rest →
        ∃ u : State,
          u = { s with
            rb1 := { s.rb1 with tail := addW s.params.rbW s.rb1.tail 1 }
            env := { s.env with requests := rest } } ∧
          (s.params.serviceReading = .oneStep →
            Sys2Proof.core.run 1 s = exec (.radioSetState (s.ringByte .rb1 s.rb1.tail)) u) ∧
          (s.params.serviceReading = .microSteps →
            Sys2Proof.core.run 4 s = exec (.radioSetState (s.ringByte .rb1 s.rb1.tail)) u)) ∧
    (∀ t, s.params.serviceReading = .oneStep → s.service = .idle → step s = .next t →
      t.service = .idle) ∧
    (∀ b, s.env.turns = [] → s.nextInterrupt = none → s.mainRb = .none → s.service = .apply b →
      step s = exec (.radioSetState b) { s with service := .idle })

/-- `BEACON_STATUS`: what each selector returns; a selector above 8 is `IllegalOperand`; nothing but the
trace changes (R262). -/
def Obligations.BeaconStatusSelectors : Prop :=
  ∀ s : State,
    (∀ v : Half, ∀ sel : Byte,
      (sel, v) ∈ [
        (0#8, s.beacon.ie ++ 0#1 ++ s.beacon.mode.code ++ s.beacon.flags),
        (1#8, s.beacon.wallclock.extractLsb' 0 16), (2#8, s.beacon.wallclock.extractLsb' 16 16),
        (3#8, 0#10 ++ BitVec.ofBool s.beacon.dataPin ++ BitVec.ofBool s.spiFault ++ s.radioState.code),
        (4#8, s.morse.messageCursor), (5#8, s.morse.symbolShift ++ s.morse.keyShift),
        (6#8, BitVec.ofNat 16 s.pn.reg), (7#8, s.pn.periodCounter),
        (8#8, 0#10 ++ s.beacon.ip ++ BitVec.ofBool s.pn.complete ++ BitVec.ofBool s.morse.active)] →
      exec (.beaconStatus sel) s = .next { s with trace := s.trace ++ [.result .ok v] }) ∧
    (∀ sel : Byte, 8 < sel.toNat →
      exec (.beaconStatus sel) s = .next { s with trace := s.trace ++ [.result .illegalOperand 0#16] })

/-! ## Interrupts -/

/-- An arrival's whole effect: the pending bit is set whether or not the source is enabled, and an
enabled source already pending sets `tick_overrun` (R291). -/
def Obligations.ArrivalLatchesThePendingBit : Prop :=
  ∀ (s : State) (x : Source) (turns : List Turn), s.env.turns = .event x :: turns →
    ∃ t, step s = .next t ∧
      t = { s with
        beacon := { s.beacon with ip := t.beacon.ip, flags := t.beacon.flags }
        env := { s.env with turns := turns } } ∧
      (∀ y, hasSource t.beacon.ip y = (hasSource s.beacon.ip y || decide (y = x))) ∧
      t.beacon.flags =
        (if hasSource s.beacon.ip x = true ∧ hasSource s.beacon.ie x = true
        then s.beacon.flags ||| 0x08#8 else s.beacon.flags)

/-- Handlers are served before Main goes on: while a source is pending and enabled NCB's next step is
the handler of one such source, whatever Main has in flight or asked for, and the entry clears that
source's pending bit, traces `Irq` and saves nothing (R292, R296). Which of several is served first is
the parameter `IRQ_ORDER`, log 9. -/
def Obligations.DeliverableSourceIsServedFirst : Prop :=
  ∀ s : State, irqOrderLegal s.params.irqOrder = true → s.env.turns = [] →
    (∃ x, hasSource s.beacon.ip x = true ∧ hasSource s.beacon.ie x = true) →
    ∃ y, hasSource s.beacon.ip y = true ∧ hasSource s.beacon.ie y = true ∧
      step s = .next (handlerBody y { s with
        beacon := { s.beacon with ip := setSource s.beacon.ip y false }
        trace := s.trace ++ [.irq y] }) ∧
      hasSource (setSource s.beacon.ip y false) y = false ∧
      (∀ z, z ≠ y → hasSource (setSource s.beacon.ip y false) z = hasSource s.beacon.ip z)

/-- The CMP_A handler. In a mode that ticks, the generator is stepped once (`CmpATick`, which has a case
for every state). A key or chip value `b` is driven on the pin in a direct mode; in a packet mode it is
queued as request 8 or 5 when it differs from `last_key`, or, with the queue full, `req_overrun` is raised
and `last_key` stays; `underrun` and `invalid_char` are raised as the tick says, and the compare register
advances from its old value. Done, an idle or a complete generator runs the stop action and leaves the
compare register, with `isr_radio_error` when the bus is dead or fails (R37, R295, R297, R298, R299). So a
direct tick drives the pin exactly once and a packet tick queues at most one request (R264). A mode that
does not tick does nothing. Failures are those in store, log 6. -/
def Obligations.CmpATickGivesOneOutputBit : Prop :=
  (∀ s : State, s.beacon.mode.ticksOnA = true → ∃ k u, CmpATick s k u) ∧
  (∀ (s u : State) (b : Bool) (f : Byte), CmpATick s (.key b f) u →
    (s.beacon.mode.keysPin = true →
      handlerBody .cmpA s = { u with
        beacon := { s.beacon with
          dataPin := b, flags := s.beacon.flags ||| f
          ccrA := addW s.params.timerW s.beacon.ccrA s.params.tickPeriod }
        trace := s.trace ++
          [.pin .data b, .ccr .a (addW s.params.timerW s.beacon.ccrA s.params.tickPeriod)] }) ∧
    (s.beacon.mode.keysQueue = true → b = s.beacon.lastKey →
      handlerBody .cmpA s = { u with
        beacon := { s.beacon with
          flags := s.beacon.flags ||| f
          ccrA := addW s.params.timerW s.beacon.ccrA s.params.tickPeriod }
        trace := s.trace ++ [.ccr .a (addW s.params.timerW s.beacon.ccrA s.params.tickPeriod)] }) ∧
    (s.beacon.mode.keysQueue = true → b ≠ s.beacon.lastKey → s.isFull .rb1 = false →
      handlerBody .cmpA s = { u with
        rb1 := {
          buf := Memory.write s.rb1.buf (slot s.params.rbCap1 s.rb1.head) (if b then 8#8 else 5#8)
          head := addW s.params.rbW s.rb1.head 1
          tail := s.rb1.tail }
        beacon := { s.beacon with
          lastKey := b, flags := s.beacon.flags ||| f
          ccrA := addW s.params.timerW s.beacon.ccrA s.params.tickPeriod }
        trace := s.trace ++ [.ccr .a (addW s.params.timerW s.beacon.ccrA s.params.tickPeriod)] }) ∧
    (s.beacon.mode.keysQueue = true → b ≠ s.beacon.lastKey → s.isFull .rb1 = true →
      handlerBody .cmpA s = { u with
        beacon := { s.beacon with
          flags := s.beacon.flags ||| f ||| 0x02#8
          ccrA := addW s.params.timerW s.beacon.ccrA s.params.tickPeriod }
        trace := s.trace ++ [.ccr .a (addW s.params.timerW s.beacon.ccrA s.params.tickPeriod)] })) ∧
  (∀ s u : State, CmpATick s .stop u →
    (s.BusHealthy (transitionList s.params s.radioState .ready).length →
      handlerBody .cmpA s = { u with
        radioState := .ready
        beacon := { s.beacon with
          mode := .off, dataPin := false, ie := s.beacon.ie &&& 0b0010#4 }
        trace := s.trace ++ writeEvents (transitionList s.params s.radioState .ready) ++
          [.pin .data false]
        env := { s.env with
          answers := s.env.answers.drop (transitionList s.params s.radioState .ready).length } }) ∧
    (∀ k, s.FailsAt k → k < (transitionList s.params s.radioState .ready).length →
      handlerBody .cmpA s = { u with
        spiFault := true
        beacon := { s.beacon with
          mode := .off, dataPin := false, ie := s.beacon.ie &&& 0b0010#4
          flags := s.beacon.flags ||| 0x10#8 }
        trace := s.trace ++ writeEvents ((transitionList s.params s.radioState .ready).take (k + 1)) ++
          [.pin .data false]
        env := { s.env with answers := s.env.answers.drop (k + 1) } }) ∧
    (s.spiFault = true →
      handlerBody .cmpA s = { u with
        beacon := { s.beacon with
          mode := .off, dataPin := false, ie := s.beacon.ie &&& 0b0010#4
          flags := s.beacon.flags ||| 0x10#8 }
        trace := s.trace ++ [.pin .data false] })) ∧
  (∀ s : State, s.beacon.mode.ticksOnA = false → handlerBody .cmpA s = s) ∧
  (∀ s t : State, takeInterrupt .cmpA s = t →
    (s.beacon.mode.keysPin = true →
      (t.trace.filter fun e => e == .pin .data true || e == .pin .data false).length =
        (s.trace.filter fun e => e == .pin .data true || e == .pin .data false).length + 1) ∧
    (s.beacon.mode.ticksOnA = true → t.beacon.mode ≠ .off →
      t.beacon.mode = s.beacon.mode ∧
      t.beacon.ccrA = addW s.params.timerW s.beacon.ccrA s.params.tickPeriod) ∧
    (s.beacon.mode.keysQueue = true → t.beacon.mode ≠ .off →
      (t.trace = s.trace ++ [.irq .cmpA, .ccr .a t.beacon.ccrA]) ∧
      (t.rb1 = s.rb1 ∨ ∃ b, ringPut .rb1 b s = some (s.setRing .rb1 t.rb1) ∧ (b = 8#8 ∨ b = 5#8))))

/-- The NIRQ handler reads both status registers, status 1 first, and on the packet-sent bit runs
`SetState(Ready)`, so "packet sent" brings the radio back to Ready; mode and enables stay. A read or a
write of the transition that fails, or a dead bus, ends it there and raises `isr_radio_error` (R181, R295,
R301). The bytes read and the failures are the environment's, logs 5 and 6. -/
def Obligations.PacketSentReturnsToReady : Prop :=
  ∀ s : State,
    (s.spiFault = true →
      handlerBody .nirq s = { s with beacon := { s.beacon with flags := s.beacon.flags ||| 0x10#8 } }) ∧
    ∀ (a0 a1 : Byte) (f0 f1 : Bool) (l : List Answer), s.spiFault = false →
      s.env.answers = ⟨[a0], f0⟩ :: ⟨[a1], f1⟩ :: l →
      (f0 = true →
        handlerBody .nirq s = { s with
          spiFault := true
          beacon := { s.beacon with flags := s.beacon.flags ||| 0x10#8 }
          trace := s.trace ++ [.spi .rd s.params.radio.regIntStatus1 [0x00#8] [a0]]
          env := { s.env with answers := ⟨[a1], f1⟩ :: l } }) ∧
      (f0 = false → f1 = true →
        handlerBody .nirq s = { s with
          spiFault := true
          beacon := { s.beacon with flags := s.beacon.flags ||| 0x10#8 }
          trace := s.trace ++
            [.spi .rd s.params.radio.regIntStatus1 [0x00#8] [a0],
              .spi .rd s.params.radio.regIntStatus2 [0x00#8] [a1]]
          env := { s.env with answers := l } }) ∧
      (f0 = false → f1 = false → a0 &&& s.params.radio.bitPksent = 0#8 →
        handlerBody .nirq s = { s with
          trace := s.trace ++
            [.spi .rd s.params.radio.regIntStatus1 [0x00#8] [a0],
              .spi .rd s.params.radio.regIntStatus2 [0x00#8] [a1]]
          env := { s.env with answers := l } }) ∧
      (f0 = false → f1 = false → a0 &&& s.params.radio.bitPksent ≠ 0#8 →
        (∀ a ∈ l.take (transitionList s.params s.radioState .ready).length, a.fails = false) →
        handlerBody .nirq s = { s with
          radioState := .ready
          trace := s.trace ++
            [.spi .rd s.params.radio.regIntStatus1 [0x00#8] [a0],
              .spi .rd s.params.radio.regIntStatus2 [0x00#8] [a1]] ++
            writeEvents (transitionList s.params s.radioState .ready)
          env := { s.env with
            answers := l.drop (transitionList s.params s.radioState .ready).length } }) ∧
      (∀ k a, f0 = false → f1 = false → a0 &&& s.params.radio.bitPksent ≠ 0#8 →
        (∀ a ∈ l.take k, a.fails = false) → l[k]? = some a → a.fails = true →
        k < (transitionList s.params s.radioState .ready).length →
        handlerBody .nirq s = { s with
          spiFault := true
          beacon := { s.beacon with flags := s.beacon.flags ||| 0x10#8 }
          trace := s.trace ++
            [.spi .rd s.params.radio.regIntStatus1 [0x00#8] [a0],
              .spi .rd s.params.radio.regIntStatus2 [0x00#8] [a1]] ++
            writeEvents ((transitionList s.params s.radioState .ready).take (k + 1))
          env := { s.env with answers := l.drop (k + 1) } })

/-- The CMP_B handler adds one to the wall clock, advances the compare register from its old value and
writes nothing else (R300). The TXCLK handler in mode Tone counts, and toggles the pin at every
`TONE_DIV`-th event; in any other mode it does nothing (R302). -/
def Obligations.WallClockAndToneHandlers : Prop :=
  ∀ s : State,
    handlerBody .cmpB s = { s with
      beacon := { s.beacon with
        wallclock := s.beacon.wallclock + 1#32
        ccrB := addW s.params.timerW s.beacon.ccrB s.params.unitPeriod }
      trace := s.trace ++ [.ccr .b (addW s.params.timerW s.beacon.ccrB s.params.unitPeriod)] } ∧
    (s.beacon.mode = .tone → (s.beacon.toneCount + 1#16).toNat = s.params.toneDiv →
      handlerBody .txclk s = { s with
        beacon := { s.beacon with toneCount := 0#16, dataPin := !s.beacon.dataPin }
        trace := s.trace ++ [.pin .data (!s.beacon.dataPin)] }) ∧
    (s.beacon.mode = .tone → (s.beacon.toneCount + 1#16).toNat ≠ s.params.toneDiv →
      handlerBody .txclk s = { s with
        beacon := { s.beacon with toneCount := s.beacon.toneCount + 1#16 } }) ∧
    (s.beacon.mode ≠ .tone → handlerBody .txclk s = s)

/-- Every step keeps the enables in agreement with the mode, the compare registers and the tone count in
range, and the reserved flag bits 0 (R36, R37, R251, R297, R302). -/
def Obligations.OrchestratorInvariantKept : Prop :=
  ∀ s t : State, s.EnableInv → s.TimerInv → s.FlagsReserved → step s = .next t →
    t.EnableInv ∧ t.TimerInv ∧ t.FlagsReserved

/-- The error flags are sticky, and no command of Main writes them (R37, R310). -/
def Obligations.FlagsAreStickyAndMainNeverWritesThem : Prop :=
  (∀ s t : State, s.NoReset → step s = .next t → t.beacon.flags &&& s.beacon.flags = s.beacon.flags) ∧
  (∀ (i : Instr) (s t : State), exec i s = .next t → t.beacon.flags = s.beacon.flags)

/-- The machine right after reset meets every invariant above, with the default configuration legal
whatever its free values are. The configuration at reset is the model's choice, logs 2 and 3. -/
def Obligations.InvariantsHoldAtReset : Prop :=
  State.reset.params.legal = true ∧ State.reset.params.constructible = true ∧ State.reset.RingInv ∧ State.reset.MemoryCanonical ∧
    State.reset.MemoryInRange ∧ State.reset.PnInv ∧ State.reset.EnableInv ∧ State.reset.TimerInv ∧
    State.reset.FlagsReserved

/-! ## Frames -/

/-- What `exec` of each command leaves unchanged. The step of RB_PUT and RB_GET that `exec` is, the check,
touches only the command in flight and the trace, and so does that of a BEACON_SERVICE of micro-steps,
which also marks the get as its own; what their later steps change is in RbPutStores…, RbGetLoads… and
BeaconServiceServes…. A BEACON_SERVICE of one step (log 10) touches the tail of `rb[1]`, the bus and
`RadioState`. The ring-buffer queries touch only the trace; the
register, radio and packet commands only the bus (trace, `spi_fault`, answers) and, for RADIO_SET_STATE,
`RadioState`, for REG_BURST_READ, XFER; the generators only themselves; the beacon's start and stop only
the bus, the timer readings, `RadioState` and the orchestrator's registers. No `exec` but that of
REG_BURST_READ changes any byte of memory, and that one XFER only: the byte RB_PUT stores is stored by its
second step (R20, R33, R122, R146). -/
def Obligations.CommandFrames : Prop :=
  ∀ (i : Instr) (s t : State), exec i s = .next t →
    ((∃ k b, i = .rbPut k b) ∨ (∃ k, i = .rbGet k) → t = { s with mainRb := t.mainRb, trace := t.trace }) ∧
    (i = .beaconService → s.params.serviceReading = .microSteps →
      t = { s with mainRb := t.mainRb, service := t.service, trace := t.trace }) ∧
    (i = .beaconService → s.params.serviceReading = .oneStep →
      t = { s with
        rb1 := { s.rb1 with tail := t.rb1.tail }
        radioState := t.radioState, spiFault := t.spiFault, trace := t.trace
        env := { s.env with answers := t.env.answers } }) ∧
    ((∃ k, i = .rbLen k) ∨ (∃ k n, i = .rbPeek k n) ∨ (∃ k, i = .rbIsFull k) ∨ (∃ k, i = .rbIsEmpty k) ∨
        (∃ k, i = .beaconStatus k) → t = { s with trace := t.trace }) ∧
    ((∃ a, i = .regRead a) ∨ (∃ a v, i = .regWrite a v) ∨ (∃ a n, i = .regBurstWrite a n) ∨
        i = .radioReset ∨ i = .radioCheckId ∨ (∃ k, i = .radioApplyConfig k) ∨
        (∃ n, i = .radioLoadPacket n) →
      t = { s with
        spiFault := t.spiFault, trace := t.trace, env := { s.env with answers := t.env.answers } }) ∧
    ((∃ a n, i = .regBurstRead a n) →
      t = { s with
        xfer := t.xfer, spiFault := t.spiFault, trace := t.trace
        env := { s.env with answers := t.env.answers } }) ∧
    ((∃ b, i = .radioSetState b) →
      t = { s with
        radioState := t.radioState, spiFault := t.spiFault, trace := t.trace
        env := { s.env with answers := t.env.answers } }) ∧
    ((∃ n, i = .morseStart n) ∨ i = .morseTick → t = { s with morse := t.morse, trace := t.trace }) ∧
    ((∃ n, i = .pnInit n) ∨ i = .pnTick → t = { s with pn := t.pn, trace := t.trace }) ∧
    ((∃ m, i = .beaconStart m) ∨ i = .beaconStop →
      t = { s with
        radioState := t.radioState, spiFault := t.spiFault, beacon := t.beacon, trace := t.trace
        env := { s.env with answers := t.env.answers, timerReads := t.env.timerReads } }) ∧
    (∀ sp k, (∃ a n, i = .regBurstRead a n) ∧ sp = .xfer ∨ t.readByte sp k = s.readByte sp k)
end

