-- ==== Sys2Proof/Laws/Arith.lean ====
section
/-! SUPPORT. The arithmetic of parameter-width indices: what moving the head or the tail does to the occupied count. -/

namespace Sys2Proof.Machine

theorem addW_lt (w a b : Nat) : addW w a b < 2 ^ w := Nat.mod_lt _ (Nat.two_pow_pos w)

theorem subW_lt (w a b : Nat) : subW w a b < 2 ^ w := Nat.mod_lt _ (Nat.two_pow_pos w)

/-- `subW` on in-range operands, without the modulus. -/
theorem subW_eq {w a b : Nat} (ha : a < 2 ^ w) (hb : b < 2 ^ w) :
    subW w a b = if b ≤ a then a - b else a + 2 ^ w - b := by
  unfold subW
  rw [Nat.mod_eq_of_lt hb]
  split
  · rw [show a + (2 ^ w - b) = (a - b) + 2 ^ w by omega, Nat.add_mod_right, Nat.mod_eq_of_lt (by omega)]
  · rw [Nat.mod_eq_of_lt (by omega)]
    omega

/-- `addW` of one on an in-range operand. -/
theorem addW_one {w a : Nat} (ha : a < 2 ^ w) : addW w a 1 = if a + 1 = 2 ^ w then 0 else a + 1 := by
  unfold addW
  split
  · rename_i h
    rw [h, Nat.mod_self]
  · exact Nat.mod_eq_of_lt (by omega)

/-- Advancing the head by one adds one to the occupied count when that does not wrap. -/
theorem subW_addW_left {w h t : Nat} (hh : h < 2 ^ w) (ht : t < 2 ^ w) (hk : subW w h t + 1 < 2 ^ w) :
    subW w (addW w h 1) t = subW w h t + 1 := by
  rw [subW_eq hh ht] at hk ⊢
  rw [subW_eq (addW_lt ..) ht, addW_one hh]
  split_ifs at * <;> omega

/-- Advancing the tail by one takes one from the occupied count when there is one to take. -/
theorem subW_addW_right {w h t : Nat} (hh : h < 2 ^ w) (ht : t < 2 ^ w) (hk : 1 ≤ subW w h t) :
    subW w h (addW w t 1) = subW w h t - 1 := by
  rw [subW_eq hh ht] at hk ⊢
  rw [subW_eq hh (addW_lt ..), addW_one ht]
  split_ifs at * <;> omega

/-- A slot lies inside the array (R62). -/
theorem slot_lt {cap : Nat} (h : 1 ≤ cap) (x : Nat) : slot cap x < cap :=
  Nat.lt_of_le_of_lt Nat.and_le_right (by omega)

/-- A legal capacity is at least one and at most half the index range (R25). -/
theorem capLegal_bounds {w c : Nat} (h : capLegal w c = true) : 1 ≤ c ∧ c ≤ 2 ^ (w - 1) := by
  simp only [capLegal, isPowerOfTwo, Bool.and_eq_true, bne_iff_ne, decide_eq_true_eq] at h
  omega

end Sys2Proof.Machine
end

