-- ==== Sys2Proof/Laws/State.lean ====
section
/-! SUPPORT. One lemma per field per update of State, true by rfl, so that no proof unfolds a record update. -/

namespace Sys2Proof.Machine

section

variable (s : State)

@[simp] theorem State.setMorse_params (x : Morse) : (s.setMorse x).params = s.params := rfl

@[simp] theorem State.setMorse_rb0 (x : Morse) : (s.setMorse x).rb0 = s.rb0 := rfl

@[simp] theorem State.setMorse_rb1 (x : Morse) : (s.setMorse x).rb1 = s.rb1 := rfl

@[simp] theorem State.setMorse_morse (x : Morse) : (s.setMorse x).morse = x := rfl

@[simp] theorem State.setMorse_pn (x : Morse) : (s.setMorse x).pn = s.pn := rfl

@[simp] theorem State.setMorse_radioState (x : Morse) : (s.setMorse x).radioState = s.radioState := rfl

@[simp] theorem State.setMorse_spiFault (x : Morse) : (s.setMorse x).spiFault = s.spiFault := rfl

@[simp] theorem State.setMorse_beacon (x : Morse) : (s.setMorse x).beacon = s.beacon := rfl

@[simp] theorem State.setMorse_mainRb (x : Morse) : (s.setMorse x).mainRb = s.mainRb := rfl

@[simp] theorem State.setMorse_service (x : Morse) : (s.setMorse x).service = s.service := rfl

@[simp] theorem State.setMorse_msg (x : Morse) : (s.setMorse x).msg = s.msg := rfl

@[simp] theorem State.setMorse_xfer (x : Morse) : (s.setMorse x).xfer = s.xfer := rfl

@[simp] theorem State.setMorse_trace (x : Morse) : (s.setMorse x).trace = s.trace := rfl

@[simp] theorem State.setMorse_epoch (x : Morse) : (s.setMorse x).epoch = s.epoch := rfl

@[simp] theorem State.setMorse_env (x : Morse) : (s.setMorse x).env = s.env := rfl

@[simp] theorem State.setPn_params (x : Pn) : (s.setPn x).params = s.params := rfl

@[simp] theorem State.setPn_rb0 (x : Pn) : (s.setPn x).rb0 = s.rb0 := rfl

@[simp] theorem State.setPn_rb1 (x : Pn) : (s.setPn x).rb1 = s.rb1 := rfl

@[simp] theorem State.setPn_morse (x : Pn) : (s.setPn x).morse = s.morse := rfl

@[simp] theorem State.setPn_pn (x : Pn) : (s.setPn x).pn = x := rfl

@[simp] theorem State.setPn_radioState (x : Pn) : (s.setPn x).radioState = s.radioState := rfl

@[simp] theorem State.setPn_spiFault (x : Pn) : (s.setPn x).spiFault = s.spiFault := rfl

@[simp] theorem State.setPn_beacon (x : Pn) : (s.setPn x).beacon = s.beacon := rfl

@[simp] theorem State.setPn_mainRb (x : Pn) : (s.setPn x).mainRb = s.mainRb := rfl

@[simp] theorem State.setPn_service (x : Pn) : (s.setPn x).service = s.service := rfl

@[simp] theorem State.setPn_msg (x : Pn) : (s.setPn x).msg = s.msg := rfl

@[simp] theorem State.setPn_xfer (x : Pn) : (s.setPn x).xfer = s.xfer := rfl

@[simp] theorem State.setPn_trace (x : Pn) : (s.setPn x).trace = s.trace := rfl

@[simp] theorem State.setPn_epoch (x : Pn) : (s.setPn x).epoch = s.epoch := rfl

@[simp] theorem State.setPn_env (x : Pn) : (s.setPn x).env = s.env := rfl

@[simp] theorem State.setRadioState_params (x : RadioState) : (s.setRadioState x).params = s.params := rfl

@[simp] theorem State.setRadioState_rb0 (x : RadioState) : (s.setRadioState x).rb0 = s.rb0 := rfl

@[simp] theorem State.setRadioState_rb1 (x : RadioState) : (s.setRadioState x).rb1 = s.rb1 := rfl

@[simp] theorem State.setRadioState_morse (x : RadioState) : (s.setRadioState x).morse = s.morse := rfl

@[simp] theorem State.setRadioState_pn (x : RadioState) : (s.setRadioState x).pn = s.pn := rfl

@[simp] theorem State.setRadioState_radioState (x : RadioState) : (s.setRadioState x).radioState = x := rfl

@[simp] theorem State.setRadioState_spiFault (x : RadioState) : (s.setRadioState x).spiFault = s.spiFault := rfl

@[simp] theorem State.setRadioState_beacon (x : RadioState) : (s.setRadioState x).beacon = s.beacon := rfl

@[simp] theorem State.setRadioState_mainRb (x : RadioState) : (s.setRadioState x).mainRb = s.mainRb := rfl

@[simp] theorem State.setRadioState_service (x : RadioState) : (s.setRadioState x).service = s.service := rfl

@[simp] theorem State.setRadioState_msg (x : RadioState) : (s.setRadioState x).msg = s.msg := rfl

@[simp] theorem State.setRadioState_xfer (x : RadioState) : (s.setRadioState x).xfer = s.xfer := rfl

@[simp] theorem State.setRadioState_trace (x : RadioState) : (s.setRadioState x).trace = s.trace := rfl

@[simp] theorem State.setRadioState_epoch (x : RadioState) : (s.setRadioState x).epoch = s.epoch := rfl

@[simp] theorem State.setRadioState_env (x : RadioState) : (s.setRadioState x).env = s.env := rfl

@[simp] theorem State.setSpiFault_params : (s.setSpiFault).params = s.params := rfl

@[simp] theorem State.setSpiFault_rb0 : (s.setSpiFault).rb0 = s.rb0 := rfl

@[simp] theorem State.setSpiFault_rb1 : (s.setSpiFault).rb1 = s.rb1 := rfl

@[simp] theorem State.setSpiFault_morse : (s.setSpiFault).morse = s.morse := rfl

@[simp] theorem State.setSpiFault_pn : (s.setSpiFault).pn = s.pn := rfl

@[simp] theorem State.setSpiFault_radioState : (s.setSpiFault).radioState = s.radioState := rfl

@[simp] theorem State.setSpiFault_spiFault : (s.setSpiFault).spiFault = true := rfl

@[simp] theorem State.setSpiFault_beacon : (s.setSpiFault).beacon = s.beacon := rfl

@[simp] theorem State.setSpiFault_mainRb : (s.setSpiFault).mainRb = s.mainRb := rfl

@[simp] theorem State.setSpiFault_service : (s.setSpiFault).service = s.service := rfl

@[simp] theorem State.setSpiFault_msg : (s.setSpiFault).msg = s.msg := rfl

@[simp] theorem State.setSpiFault_xfer : (s.setSpiFault).xfer = s.xfer := rfl

@[simp] theorem State.setSpiFault_trace : (s.setSpiFault).trace = s.trace := rfl

@[simp] theorem State.setSpiFault_epoch : (s.setSpiFault).epoch = s.epoch := rfl

@[simp] theorem State.setSpiFault_env : (s.setSpiFault).env = s.env := rfl

@[simp] theorem State.setBeacon_params (x : Beacon) : (s.setBeacon x).params = s.params := rfl

@[simp] theorem State.setBeacon_rb0 (x : Beacon) : (s.setBeacon x).rb0 = s.rb0 := rfl

@[simp] theorem State.setBeacon_rb1 (x : Beacon) : (s.setBeacon x).rb1 = s.rb1 := rfl

@[simp] theorem State.setBeacon_morse (x : Beacon) : (s.setBeacon x).morse = s.morse := rfl

@[simp] theorem State.setBeacon_pn (x : Beacon) : (s.setBeacon x).pn = s.pn := rfl

@[simp] theorem State.setBeacon_radioState (x : Beacon) : (s.setBeacon x).radioState = s.radioState := rfl

@[simp] theorem State.setBeacon_spiFault (x : Beacon) : (s.setBeacon x).spiFault = s.spiFault := rfl

@[simp] theorem State.setBeacon_beacon (x : Beacon) : (s.setBeacon x).beacon = x := rfl

@[simp] theorem State.setBeacon_mainRb (x : Beacon) : (s.setBeacon x).mainRb = s.mainRb := rfl

@[simp] theorem State.setBeacon_service (x : Beacon) : (s.setBeacon x).service = s.service := rfl

@[simp] theorem State.setBeacon_msg (x : Beacon) : (s.setBeacon x).msg = s.msg := rfl

@[simp] theorem State.setBeacon_xfer (x : Beacon) : (s.setBeacon x).xfer = s.xfer := rfl

@[simp] theorem State.setBeacon_trace (x : Beacon) : (s.setBeacon x).trace = s.trace := rfl

@[simp] theorem State.setBeacon_epoch (x : Beacon) : (s.setBeacon x).epoch = s.epoch := rfl

@[simp] theorem State.setBeacon_env (x : Beacon) : (s.setBeacon x).env = s.env := rfl

@[simp] theorem State.setMainRb_params (x : MainRb) : (s.setMainRb x).params = s.params := rfl

@[simp] theorem State.setMainRb_rb0 (x : MainRb) : (s.setMainRb x).rb0 = s.rb0 := rfl

@[simp] theorem State.setMainRb_rb1 (x : MainRb) : (s.setMainRb x).rb1 = s.rb1 := rfl

@[simp] theorem State.setMainRb_morse (x : MainRb) : (s.setMainRb x).morse = s.morse := rfl

@[simp] theorem State.setMainRb_pn (x : MainRb) : (s.setMainRb x).pn = s.pn := rfl

@[simp] theorem State.setMainRb_radioState (x : MainRb) : (s.setMainRb x).radioState = s.radioState := rfl

@[simp] theorem State.setMainRb_spiFault (x : MainRb) : (s.setMainRb x).spiFault = s.spiFault := rfl

@[simp] theorem State.setMainRb_beacon (x : MainRb) : (s.setMainRb x).beacon = s.beacon := rfl

@[simp] theorem State.setMainRb_mainRb (x : MainRb) : (s.setMainRb x).mainRb = x := rfl

@[simp] theorem State.setMainRb_service (x : MainRb) : (s.setMainRb x).service = s.service := rfl

@[simp] theorem State.setMainRb_msg (x : MainRb) : (s.setMainRb x).msg = s.msg := rfl

@[simp] theorem State.setMainRb_xfer (x : MainRb) : (s.setMainRb x).xfer = s.xfer := rfl

@[simp] theorem State.setMainRb_trace (x : MainRb) : (s.setMainRb x).trace = s.trace := rfl

@[simp] theorem State.setMainRb_epoch (x : MainRb) : (s.setMainRb x).epoch = s.epoch := rfl

@[simp] theorem State.setMainRb_env (x : MainRb) : (s.setMainRb x).env = s.env := rfl

@[simp] theorem State.setService_params (x : Service) : (s.setService x).params = s.params := rfl

@[simp] theorem State.setService_rb0 (x : Service) : (s.setService x).rb0 = s.rb0 := rfl

@[simp] theorem State.setService_rb1 (x : Service) : (s.setService x).rb1 = s.rb1 := rfl

@[simp] theorem State.setService_morse (x : Service) : (s.setService x).morse = s.morse := rfl

@[simp] theorem State.setService_pn (x : Service) : (s.setService x).pn = s.pn := rfl

@[simp] theorem State.setService_radioState (x : Service) : (s.setService x).radioState = s.radioState := rfl

@[simp] theorem State.setService_spiFault (x : Service) : (s.setService x).spiFault = s.spiFault := rfl

@[simp] theorem State.setService_beacon (x : Service) : (s.setService x).beacon = s.beacon := rfl

@[simp] theorem State.setService_mainRb (x : Service) : (s.setService x).mainRb = s.mainRb := rfl

@[simp] theorem State.setService_service (x : Service) : (s.setService x).service = x := rfl

@[simp] theorem State.setService_msg (x : Service) : (s.setService x).msg = s.msg := rfl

@[simp] theorem State.setService_xfer (x : Service) : (s.setService x).xfer = s.xfer := rfl

@[simp] theorem State.setService_trace (x : Service) : (s.setService x).trace = s.trace := rfl

@[simp] theorem State.setService_epoch (x : Service) : (s.setService x).epoch = s.epoch := rfl

@[simp] theorem State.setService_env (x : Service) : (s.setService x).env = s.env := rfl

@[simp] theorem State.setMsg_params (x : Memory) : (s.setMsg x).params = s.params := rfl

@[simp] theorem State.setMsg_rb0 (x : Memory) : (s.setMsg x).rb0 = s.rb0 := rfl

@[simp] theorem State.setMsg_rb1 (x : Memory) : (s.setMsg x).rb1 = s.rb1 := rfl

@[simp] theorem State.setMsg_morse (x : Memory) : (s.setMsg x).morse = s.morse := rfl

@[simp] theorem State.setMsg_pn (x : Memory) : (s.setMsg x).pn = s.pn := rfl

@[simp] theorem State.setMsg_radioState (x : Memory) : (s.setMsg x).radioState = s.radioState := rfl

@[simp] theorem State.setMsg_spiFault (x : Memory) : (s.setMsg x).spiFault = s.spiFault := rfl

@[simp] theorem State.setMsg_beacon (x : Memory) : (s.setMsg x).beacon = s.beacon := rfl

@[simp] theorem State.setMsg_mainRb (x : Memory) : (s.setMsg x).mainRb = s.mainRb := rfl

@[simp] theorem State.setMsg_service (x : Memory) : (s.setMsg x).service = s.service := rfl

@[simp] theorem State.setMsg_msg (x : Memory) : (s.setMsg x).msg = x := rfl

@[simp] theorem State.setMsg_xfer (x : Memory) : (s.setMsg x).xfer = s.xfer := rfl

@[simp] theorem State.setMsg_trace (x : Memory) : (s.setMsg x).trace = s.trace := rfl

@[simp] theorem State.setMsg_epoch (x : Memory) : (s.setMsg x).epoch = s.epoch := rfl

@[simp] theorem State.setMsg_env (x : Memory) : (s.setMsg x).env = s.env := rfl

@[simp] theorem State.setXfer_params (x : Memory) : (s.setXfer x).params = s.params := rfl

@[simp] theorem State.setXfer_rb0 (x : Memory) : (s.setXfer x).rb0 = s.rb0 := rfl

@[simp] theorem State.setXfer_rb1 (x : Memory) : (s.setXfer x).rb1 = s.rb1 := rfl

@[simp] theorem State.setXfer_morse (x : Memory) : (s.setXfer x).morse = s.morse := rfl

@[simp] theorem State.setXfer_pn (x : Memory) : (s.setXfer x).pn = s.pn := rfl

@[simp] theorem State.setXfer_radioState (x : Memory) : (s.setXfer x).radioState = s.radioState := rfl

@[simp] theorem State.setXfer_spiFault (x : Memory) : (s.setXfer x).spiFault = s.spiFault := rfl

@[simp] theorem State.setXfer_beacon (x : Memory) : (s.setXfer x).beacon = s.beacon := rfl

@[simp] theorem State.setXfer_mainRb (x : Memory) : (s.setXfer x).mainRb = s.mainRb := rfl

@[simp] theorem State.setXfer_service (x : Memory) : (s.setXfer x).service = s.service := rfl

@[simp] theorem State.setXfer_msg (x : Memory) : (s.setXfer x).msg = s.msg := rfl

@[simp] theorem State.setXfer_xfer (x : Memory) : (s.setXfer x).xfer = x := rfl

@[simp] theorem State.setXfer_trace (x : Memory) : (s.setXfer x).trace = s.trace := rfl

@[simp] theorem State.setXfer_epoch (x : Memory) : (s.setXfer x).epoch = s.epoch := rfl

@[simp] theorem State.setXfer_env (x : Memory) : (s.setXfer x).env = s.env := rfl

@[simp] theorem State.setEnv_params (x : Env) : (s.setEnv x).params = s.params := rfl

@[simp] theorem State.setEnv_rb0 (x : Env) : (s.setEnv x).rb0 = s.rb0 := rfl

@[simp] theorem State.setEnv_rb1 (x : Env) : (s.setEnv x).rb1 = s.rb1 := rfl

@[simp] theorem State.setEnv_morse (x : Env) : (s.setEnv x).morse = s.morse := rfl

@[simp] theorem State.setEnv_pn (x : Env) : (s.setEnv x).pn = s.pn := rfl

@[simp] theorem State.setEnv_radioState (x : Env) : (s.setEnv x).radioState = s.radioState := rfl

@[simp] theorem State.setEnv_spiFault (x : Env) : (s.setEnv x).spiFault = s.spiFault := rfl

@[simp] theorem State.setEnv_beacon (x : Env) : (s.setEnv x).beacon = s.beacon := rfl

@[simp] theorem State.setEnv_mainRb (x : Env) : (s.setEnv x).mainRb = s.mainRb := rfl

@[simp] theorem State.setEnv_service (x : Env) : (s.setEnv x).service = s.service := rfl

@[simp] theorem State.setEnv_msg (x : Env) : (s.setEnv x).msg = s.msg := rfl

@[simp] theorem State.setEnv_xfer (x : Env) : (s.setEnv x).xfer = s.xfer := rfl

@[simp] theorem State.setEnv_trace (x : Env) : (s.setEnv x).trace = s.trace := rfl

@[simp] theorem State.setEnv_epoch (x : Env) : (s.setEnv x).epoch = s.epoch := rfl

@[simp] theorem State.setEnv_env (x : Env) : (s.setEnv x).env = x := rfl

@[simp] theorem State.emit_params (x : TraceEvent) : (s.emit x).params = s.params := rfl

@[simp] theorem State.emit_rb0 (x : TraceEvent) : (s.emit x).rb0 = s.rb0 := rfl

@[simp] theorem State.emit_rb1 (x : TraceEvent) : (s.emit x).rb1 = s.rb1 := rfl

@[simp] theorem State.emit_morse (x : TraceEvent) : (s.emit x).morse = s.morse := rfl

@[simp] theorem State.emit_pn (x : TraceEvent) : (s.emit x).pn = s.pn := rfl

@[simp] theorem State.emit_radioState (x : TraceEvent) : (s.emit x).radioState = s.radioState := rfl

@[simp] theorem State.emit_spiFault (x : TraceEvent) : (s.emit x).spiFault = s.spiFault := rfl

@[simp] theorem State.emit_beacon (x : TraceEvent) : (s.emit x).beacon = s.beacon := rfl

@[simp] theorem State.emit_mainRb (x : TraceEvent) : (s.emit x).mainRb = s.mainRb := rfl

@[simp] theorem State.emit_service (x : TraceEvent) : (s.emit x).service = s.service := rfl

@[simp] theorem State.emit_msg (x : TraceEvent) : (s.emit x).msg = s.msg := rfl

@[simp] theorem State.emit_xfer (x : TraceEvent) : (s.emit x).xfer = s.xfer := rfl

@[simp] theorem State.emit_trace (x : TraceEvent) : (s.emit x).trace = s.trace ++ [x] := rfl

@[simp] theorem State.emit_epoch (x : TraceEvent) : (s.emit x).epoch = s.epoch := rfl

@[simp] theorem State.emit_env (x : TraceEvent) : (s.emit x).env = s.env := rfl

@[simp] theorem State.finish_params (x : Reply) : (s.finish x).params = s.params := rfl

@[simp] theorem State.finish_rb0 (x : Reply) : (s.finish x).rb0 = s.rb0 := rfl

@[simp] theorem State.finish_rb1 (x : Reply) : (s.finish x).rb1 = s.rb1 := rfl

@[simp] theorem State.finish_morse (x : Reply) : (s.finish x).morse = s.morse := rfl

@[simp] theorem State.finish_pn (x : Reply) : (s.finish x).pn = s.pn := rfl

@[simp] theorem State.finish_radioState (x : Reply) : (s.finish x).radioState = s.radioState := rfl

@[simp] theorem State.finish_spiFault (x : Reply) : (s.finish x).spiFault = s.spiFault := rfl

@[simp] theorem State.finish_beacon (x : Reply) : (s.finish x).beacon = s.beacon := rfl

@[simp] theorem State.finish_mainRb (x : Reply) : (s.finish x).mainRb = s.mainRb := rfl

@[simp] theorem State.finish_service (x : Reply) : (s.finish x).service = s.service := rfl

@[simp] theorem State.finish_msg (x : Reply) : (s.finish x).msg = s.msg := rfl

@[simp] theorem State.finish_xfer (x : Reply) : (s.finish x).xfer = s.xfer := rfl

@[simp] theorem State.finish_trace (x : Reply) : (s.finish x).trace = s.trace ++ [.result x.status x.value] := rfl

@[simp] theorem State.finish_epoch (x : Reply) : (s.finish x).epoch = s.epoch := rfl

@[simp] theorem State.finish_env (x : Reply) : (s.finish x).env = s.env := rfl

@[simp] theorem State.driveData_params (x : Bool) : (s.driveData x).params = s.params := rfl

@[simp] theorem State.driveData_rb0 (x : Bool) : (s.driveData x).rb0 = s.rb0 := rfl

@[simp] theorem State.driveData_rb1 (x : Bool) : (s.driveData x).rb1 = s.rb1 := rfl

@[simp] theorem State.driveData_morse (x : Bool) : (s.driveData x).morse = s.morse := rfl

@[simp] theorem State.driveData_pn (x : Bool) : (s.driveData x).pn = s.pn := rfl

@[simp] theorem State.driveData_radioState (x : Bool) : (s.driveData x).radioState = s.radioState := rfl

@[simp] theorem State.driveData_spiFault (x : Bool) : (s.driveData x).spiFault = s.spiFault := rfl

@[simp] theorem State.driveData_beacon (x : Bool) : (s.driveData x).beacon = { s.beacon with dataPin := x } := rfl

@[simp] theorem State.driveData_mainRb (x : Bool) : (s.driveData x).mainRb = s.mainRb := rfl

@[simp] theorem State.driveData_service (x : Bool) : (s.driveData x).service = s.service := rfl

@[simp] theorem State.driveData_msg (x : Bool) : (s.driveData x).msg = s.msg := rfl

@[simp] theorem State.driveData_xfer (x : Bool) : (s.driveData x).xfer = s.xfer := rfl

@[simp] theorem State.driveData_trace (x : Bool) : (s.driveData x).trace = s.trace ++ [.pin .data x] := rfl

@[simp] theorem State.driveData_epoch (x : Bool) : (s.driveData x).epoch = s.epoch := rfl

@[simp] theorem State.driveData_env (x : Bool) : (s.driveData x).env = s.env := rfl

@[simp] theorem State.writeCcrA_params (x : Nat) : (s.writeCcrA x).params = s.params := rfl

@[simp] theorem State.writeCcrA_rb0 (x : Nat) : (s.writeCcrA x).rb0 = s.rb0 := rfl

@[simp] theorem State.writeCcrA_rb1 (x : Nat) : (s.writeCcrA x).rb1 = s.rb1 := rfl

@[simp] theorem State.writeCcrA_morse (x : Nat) : (s.writeCcrA x).morse = s.morse := rfl

@[simp] theorem State.writeCcrA_pn (x : Nat) : (s.writeCcrA x).pn = s.pn := rfl

@[simp] theorem State.writeCcrA_radioState (x : Nat) : (s.writeCcrA x).radioState = s.radioState := rfl

@[simp] theorem State.writeCcrA_spiFault (x : Nat) : (s.writeCcrA x).spiFault = s.spiFault := rfl

@[simp] theorem State.writeCcrA_beacon (x : Nat) : (s.writeCcrA x).beacon = { s.beacon with ccrA := x } := rfl

@[simp] theorem State.writeCcrA_mainRb (x : Nat) : (s.writeCcrA x).mainRb = s.mainRb := rfl

@[simp] theorem State.writeCcrA_service (x : Nat) : (s.writeCcrA x).service = s.service := rfl

@[simp] theorem State.writeCcrA_msg (x : Nat) : (s.writeCcrA x).msg = s.msg := rfl

@[simp] theorem State.writeCcrA_xfer (x : Nat) : (s.writeCcrA x).xfer = s.xfer := rfl

@[simp] theorem State.writeCcrA_trace (x : Nat) : (s.writeCcrA x).trace = s.trace ++ [.ccr .a x] := rfl

@[simp] theorem State.writeCcrA_epoch (x : Nat) : (s.writeCcrA x).epoch = s.epoch := rfl

@[simp] theorem State.writeCcrA_env (x : Nat) : (s.writeCcrA x).env = s.env := rfl

@[simp] theorem State.writeCcrB_params (x : Nat) : (s.writeCcrB x).params = s.params := rfl

@[simp] theorem State.writeCcrB_rb0 (x : Nat) : (s.writeCcrB x).rb0 = s.rb0 := rfl

@[simp] theorem State.writeCcrB_rb1 (x : Nat) : (s.writeCcrB x).rb1 = s.rb1 := rfl

@[simp] theorem State.writeCcrB_morse (x : Nat) : (s.writeCcrB x).morse = s.morse := rfl

@[simp] theorem State.writeCcrB_pn (x : Nat) : (s.writeCcrB x).pn = s.pn := rfl

@[simp] theorem State.writeCcrB_radioState (x : Nat) : (s.writeCcrB x).radioState = s.radioState := rfl

@[simp] theorem State.writeCcrB_spiFault (x : Nat) : (s.writeCcrB x).spiFault = s.spiFault := rfl

@[simp] theorem State.writeCcrB_beacon (x : Nat) : (s.writeCcrB x).beacon = { s.beacon with ccrB := x } := rfl

@[simp] theorem State.writeCcrB_mainRb (x : Nat) : (s.writeCcrB x).mainRb = s.mainRb := rfl

@[simp] theorem State.writeCcrB_service (x : Nat) : (s.writeCcrB x).service = s.service := rfl

@[simp] theorem State.writeCcrB_msg (x : Nat) : (s.writeCcrB x).msg = s.msg := rfl

@[simp] theorem State.writeCcrB_xfer (x : Nat) : (s.writeCcrB x).xfer = s.xfer := rfl

@[simp] theorem State.writeCcrB_trace (x : Nat) : (s.writeCcrB x).trace = s.trace ++ [.ccr .b x] := rfl

@[simp] theorem State.writeCcrB_epoch (x : Nat) : (s.writeCcrB x).epoch = s.epoch := rfl

@[simp] theorem State.writeCcrB_env (x : Nat) : (s.writeCcrB x).env = s.env := rfl

@[simp] theorem State.dropAnswer_params : (s.dropAnswer).params = s.params := rfl

@[simp] theorem State.dropAnswer_rb0 : (s.dropAnswer).rb0 = s.rb0 := rfl

@[simp] theorem State.dropAnswer_rb1 : (s.dropAnswer).rb1 = s.rb1 := rfl

@[simp] theorem State.dropAnswer_morse : (s.dropAnswer).morse = s.morse := rfl

@[simp] theorem State.dropAnswer_pn : (s.dropAnswer).pn = s.pn := rfl

@[simp] theorem State.dropAnswer_radioState : (s.dropAnswer).radioState = s.radioState := rfl

@[simp] theorem State.dropAnswer_spiFault : (s.dropAnswer).spiFault = s.spiFault := rfl

@[simp] theorem State.dropAnswer_beacon : (s.dropAnswer).beacon = s.beacon := rfl

@[simp] theorem State.dropAnswer_mainRb : (s.dropAnswer).mainRb = s.mainRb := rfl

@[simp] theorem State.dropAnswer_service : (s.dropAnswer).service = s.service := rfl

@[simp] theorem State.dropAnswer_msg : (s.dropAnswer).msg = s.msg := rfl

@[simp] theorem State.dropAnswer_xfer : (s.dropAnswer).xfer = s.xfer := rfl

@[simp] theorem State.dropAnswer_trace : (s.dropAnswer).trace = s.trace := rfl

@[simp] theorem State.dropAnswer_epoch : (s.dropAnswer).epoch = s.epoch := rfl

@[simp] theorem State.dropAnswer_env : (s.dropAnswer).env = { s.env with answers := s.env.answers.tail } := rfl

@[simp] theorem State.dropTimerRead_params : (s.dropTimerRead).params = s.params := rfl

@[simp] theorem State.dropTimerRead_rb0 : (s.dropTimerRead).rb0 = s.rb0 := rfl

@[simp] theorem State.dropTimerRead_rb1 : (s.dropTimerRead).rb1 = s.rb1 := rfl

@[simp] theorem State.dropTimerRead_morse : (s.dropTimerRead).morse = s.morse := rfl

@[simp] theorem State.dropTimerRead_pn : (s.dropTimerRead).pn = s.pn := rfl

@[simp] theorem State.dropTimerRead_radioState : (s.dropTimerRead).radioState = s.radioState := rfl

@[simp] theorem State.dropTimerRead_spiFault : (s.dropTimerRead).spiFault = s.spiFault := rfl

@[simp] theorem State.dropTimerRead_beacon : (s.dropTimerRead).beacon = s.beacon := rfl

@[simp] theorem State.dropTimerRead_mainRb : (s.dropTimerRead).mainRb = s.mainRb := rfl

@[simp] theorem State.dropTimerRead_service : (s.dropTimerRead).service = s.service := rfl

@[simp] theorem State.dropTimerRead_msg : (s.dropTimerRead).msg = s.msg := rfl

@[simp] theorem State.dropTimerRead_xfer : (s.dropTimerRead).xfer = s.xfer := rfl

@[simp] theorem State.dropTimerRead_trace : (s.dropTimerRead).trace = s.trace := rfl

@[simp] theorem State.dropTimerRead_epoch : (s.dropTimerRead).epoch = s.epoch := rfl

@[simp] theorem State.dropTimerRead_env : (s.dropTimerRead).env = { s.env with timerReads := s.env.timerReads.tail } := rfl

@[simp] theorem State.dropTurn_params : (s.dropTurn).params = s.params := rfl

@[simp] theorem State.dropTurn_rb0 : (s.dropTurn).rb0 = s.rb0 := rfl

@[simp] theorem State.dropTurn_rb1 : (s.dropTurn).rb1 = s.rb1 := rfl

@[simp] theorem State.dropTurn_morse : (s.dropTurn).morse = s.morse := rfl

@[simp] theorem State.dropTurn_pn : (s.dropTurn).pn = s.pn := rfl

@[simp] theorem State.dropTurn_radioState : (s.dropTurn).radioState = s.radioState := rfl

@[simp] theorem State.dropTurn_spiFault : (s.dropTurn).spiFault = s.spiFault := rfl

@[simp] theorem State.dropTurn_beacon : (s.dropTurn).beacon = s.beacon := rfl

@[simp] theorem State.dropTurn_mainRb : (s.dropTurn).mainRb = s.mainRb := rfl

@[simp] theorem State.dropTurn_service : (s.dropTurn).service = s.service := rfl

@[simp] theorem State.dropTurn_msg : (s.dropTurn).msg = s.msg := rfl

@[simp] theorem State.dropTurn_xfer : (s.dropTurn).xfer = s.xfer := rfl

@[simp] theorem State.dropTurn_trace : (s.dropTurn).trace = s.trace := rfl

@[simp] theorem State.dropTurn_epoch : (s.dropTurn).epoch = s.epoch := rfl

@[simp] theorem State.dropTurn_env : (s.dropTurn).env = { s.env with turns := s.env.turns.tail } := rfl

@[simp] theorem State.dropRequest_params : (s.dropRequest).params = s.params := rfl

@[simp] theorem State.dropRequest_rb0 : (s.dropRequest).rb0 = s.rb0 := rfl

@[simp] theorem State.dropRequest_rb1 : (s.dropRequest).rb1 = s.rb1 := rfl

@[simp] theorem State.dropRequest_morse : (s.dropRequest).morse = s.morse := rfl

@[simp] theorem State.dropRequest_pn : (s.dropRequest).pn = s.pn := rfl

@[simp] theorem State.dropRequest_radioState : (s.dropRequest).radioState = s.radioState := rfl

@[simp] theorem State.dropRequest_spiFault : (s.dropRequest).spiFault = s.spiFault := rfl

@[simp] theorem State.dropRequest_beacon : (s.dropRequest).beacon = s.beacon := rfl

@[simp] theorem State.dropRequest_mainRb : (s.dropRequest).mainRb = s.mainRb := rfl

@[simp] theorem State.dropRequest_service : (s.dropRequest).service = s.service := rfl

@[simp] theorem State.dropRequest_msg : (s.dropRequest).msg = s.msg := rfl

@[simp] theorem State.dropRequest_xfer : (s.dropRequest).xfer = s.xfer := rfl

@[simp] theorem State.dropRequest_trace : (s.dropRequest).trace = s.trace := rfl

@[simp] theorem State.dropRequest_epoch : (s.dropRequest).epoch = s.epoch := rfl

@[simp] theorem State.dropRequest_env : (s.dropRequest).env = { s.env with requests := s.env.requests.tail } := rfl

@[simp] theorem State.raiseFlag_params (x : Byte) : (s.raiseFlag x).params = s.params := rfl

@[simp] theorem State.raiseFlag_rb0 (x : Byte) : (s.raiseFlag x).rb0 = s.rb0 := rfl

@[simp] theorem State.raiseFlag_rb1 (x : Byte) : (s.raiseFlag x).rb1 = s.rb1 := rfl

@[simp] theorem State.raiseFlag_morse (x : Byte) : (s.raiseFlag x).morse = s.morse := rfl

@[simp] theorem State.raiseFlag_pn (x : Byte) : (s.raiseFlag x).pn = s.pn := rfl

@[simp] theorem State.raiseFlag_radioState (x : Byte) : (s.raiseFlag x).radioState = s.radioState := rfl

@[simp] theorem State.raiseFlag_spiFault (x : Byte) : (s.raiseFlag x).spiFault = s.spiFault := rfl

@[simp] theorem State.raiseFlag_beacon (x : Byte) : (s.raiseFlag x).beacon = s.beacon.raise x := rfl

@[simp] theorem State.raiseFlag_mainRb (x : Byte) : (s.raiseFlag x).mainRb = s.mainRb := rfl

@[simp] theorem State.raiseFlag_service (x : Byte) : (s.raiseFlag x).service = s.service := rfl

@[simp] theorem State.raiseFlag_msg (x : Byte) : (s.raiseFlag x).msg = s.msg := rfl

@[simp] theorem State.raiseFlag_xfer (x : Byte) : (s.raiseFlag x).xfer = s.xfer := rfl

@[simp] theorem State.raiseFlag_trace (x : Byte) : (s.raiseFlag x).trace = s.trace := rfl

@[simp] theorem State.raiseFlag_epoch (x : Byte) : (s.raiseFlag x).epoch = s.epoch := rfl

@[simp] theorem State.raiseFlag_env (x : Byte) : (s.raiseFlag x).env = s.env := rfl

@[simp] theorem State.arrive_params (x : Source) : (s.arrive x).params = s.params := rfl

@[simp] theorem State.arrive_rb0 (x : Source) : (s.arrive x).rb0 = s.rb0 := rfl

@[simp] theorem State.arrive_rb1 (x : Source) : (s.arrive x).rb1 = s.rb1 := rfl

@[simp] theorem State.arrive_morse (x : Source) : (s.arrive x).morse = s.morse := rfl

@[simp] theorem State.arrive_pn (x : Source) : (s.arrive x).pn = s.pn := rfl

@[simp] theorem State.arrive_radioState (x : Source) : (s.arrive x).radioState = s.radioState := rfl

@[simp] theorem State.arrive_spiFault (x : Source) : (s.arrive x).spiFault = s.spiFault := rfl

@[simp] theorem State.arrive_beacon (x : Source) : (s.arrive x).beacon = s.beacon.arrive x := rfl

@[simp] theorem State.arrive_mainRb (x : Source) : (s.arrive x).mainRb = s.mainRb := rfl

@[simp] theorem State.arrive_service (x : Source) : (s.arrive x).service = s.service := rfl

@[simp] theorem State.arrive_msg (x : Source) : (s.arrive x).msg = s.msg := rfl

@[simp] theorem State.arrive_xfer (x : Source) : (s.arrive x).xfer = s.xfer := rfl

@[simp] theorem State.arrive_trace (x : Source) : (s.arrive x).trace = s.trace := rfl

@[simp] theorem State.arrive_epoch (x : Source) : (s.arrive x).epoch = s.epoch := rfl

@[simp] theorem State.arrive_env (x : Source) : (s.arrive x).env = s.env := rfl

@[simp] theorem State.enterHandler_params (x : Source) : (s.enterHandler x).params = s.params := rfl

@[simp] theorem State.enterHandler_rb0 (x : Source) : (s.enterHandler x).rb0 = s.rb0 := rfl

@[simp] theorem State.enterHandler_rb1 (x : Source) : (s.enterHandler x).rb1 = s.rb1 := rfl

@[simp] theorem State.enterHandler_morse (x : Source) : (s.enterHandler x).morse = s.morse := rfl

@[simp] theorem State.enterHandler_pn (x : Source) : (s.enterHandler x).pn = s.pn := rfl

@[simp] theorem State.enterHandler_radioState (x : Source) : (s.enterHandler x).radioState = s.radioState := rfl

@[simp] theorem State.enterHandler_spiFault (x : Source) : (s.enterHandler x).spiFault = s.spiFault := rfl

@[simp] theorem State.enterHandler_beacon (x : Source) : (s.enterHandler x).beacon = s.beacon.acknowledge x := rfl

@[simp] theorem State.enterHandler_mainRb (x : Source) : (s.enterHandler x).mainRb = s.mainRb := rfl

@[simp] theorem State.enterHandler_service (x : Source) : (s.enterHandler x).service = s.service := rfl

@[simp] theorem State.enterHandler_msg (x : Source) : (s.enterHandler x).msg = s.msg := rfl

@[simp] theorem State.enterHandler_xfer (x : Source) : (s.enterHandler x).xfer = s.xfer := rfl

@[simp] theorem State.enterHandler_trace (x : Source) : (s.enterHandler x).trace = s.trace ++ [.irq x] := rfl

@[simp] theorem State.enterHandler_epoch (x : Source) : (s.enterHandler x).epoch = s.epoch := rfl

@[simp] theorem State.enterHandler_env (x : Source) : (s.enterHandler x).env = s.env := rfl

@[simp] theorem State.setRing_rb0_params (r : Ring) : (s.setRing .rb0 r).params = s.params := rfl

@[simp] theorem State.setRing_rb0_rb0 (r : Ring) : (s.setRing .rb0 r).rb0 = r := rfl

@[simp] theorem State.setRing_rb0_rb1 (r : Ring) : (s.setRing .rb0 r).rb1 = s.rb1 := rfl

@[simp] theorem State.setRing_rb0_morse (r : Ring) : (s.setRing .rb0 r).morse = s.morse := rfl

@[simp] theorem State.setRing_rb0_pn (r : Ring) : (s.setRing .rb0 r).pn = s.pn := rfl

@[simp] theorem State.setRing_rb0_radioState (r : Ring) : (s.setRing .rb0 r).radioState = s.radioState := rfl

@[simp] theorem State.setRing_rb0_spiFault (r : Ring) : (s.setRing .rb0 r).spiFault = s.spiFault := rfl

@[simp] theorem State.setRing_rb0_beacon (r : Ring) : (s.setRing .rb0 r).beacon = s.beacon := rfl

@[simp] theorem State.setRing_rb0_mainRb (r : Ring) : (s.setRing .rb0 r).mainRb = s.mainRb := rfl

@[simp] theorem State.setRing_rb0_service (r : Ring) : (s.setRing .rb0 r).service = s.service := rfl

@[simp] theorem State.setRing_rb0_msg (r : Ring) : (s.setRing .rb0 r).msg = s.msg := rfl

@[simp] theorem State.setRing_rb0_xfer (r : Ring) : (s.setRing .rb0 r).xfer = s.xfer := rfl

@[simp] theorem State.setRing_rb0_trace (r : Ring) : (s.setRing .rb0 r).trace = s.trace := rfl

@[simp] theorem State.setRing_rb0_epoch (r : Ring) : (s.setRing .rb0 r).epoch = s.epoch := rfl

@[simp] theorem State.setRing_rb0_env (r : Ring) : (s.setRing .rb0 r).env = s.env := rfl

@[simp] theorem State.setRing_rb1_params (r : Ring) : (s.setRing .rb1 r).params = s.params := rfl

@[simp] theorem State.setRing_rb1_rb0 (r : Ring) : (s.setRing .rb1 r).rb0 = s.rb0 := rfl

@[simp] theorem State.setRing_rb1_rb1 (r : Ring) : (s.setRing .rb1 r).rb1 = r := rfl

@[simp] theorem State.setRing_rb1_morse (r : Ring) : (s.setRing .rb1 r).morse = s.morse := rfl

@[simp] theorem State.setRing_rb1_pn (r : Ring) : (s.setRing .rb1 r).pn = s.pn := rfl

@[simp] theorem State.setRing_rb1_radioState (r : Ring) : (s.setRing .rb1 r).radioState = s.radioState := rfl

@[simp] theorem State.setRing_rb1_spiFault (r : Ring) : (s.setRing .rb1 r).spiFault = s.spiFault := rfl

@[simp] theorem State.setRing_rb1_beacon (r : Ring) : (s.setRing .rb1 r).beacon = s.beacon := rfl

@[simp] theorem State.setRing_rb1_mainRb (r : Ring) : (s.setRing .rb1 r).mainRb = s.mainRb := rfl

@[simp] theorem State.setRing_rb1_service (r : Ring) : (s.setRing .rb1 r).service = s.service := rfl

@[simp] theorem State.setRing_rb1_msg (r : Ring) : (s.setRing .rb1 r).msg = s.msg := rfl

@[simp] theorem State.setRing_rb1_xfer (r : Ring) : (s.setRing .rb1 r).xfer = s.xfer := rfl

@[simp] theorem State.setRing_rb1_trace (r : Ring) : (s.setRing .rb1 r).trace = s.trace := rfl

@[simp] theorem State.setRing_rb1_epoch (r : Ring) : (s.setRing .rb1 r).epoch = s.epoch := rfl

@[simp] theorem State.setRing_rb1_env (r : Ring) : (s.setRing .rb1 r).env = s.env := rfl

@[simp] theorem State.setRing_params (i : RingId) (r : Ring) : (s.setRing i r).params = s.params := by
  cases i <;> rfl

@[simp] theorem State.setRing_morse (i : RingId) (r : Ring) : (s.setRing i r).morse = s.morse := by
  cases i <;> rfl

@[simp] theorem State.setRing_pn (i : RingId) (r : Ring) : (s.setRing i r).pn = s.pn := by
  cases i <;> rfl

@[simp] theorem State.setRing_radioState (i : RingId) (r : Ring) : (s.setRing i r).radioState = s.radioState := by
  cases i <;> rfl

@[simp] theorem State.setRing_spiFault (i : RingId) (r : Ring) : (s.setRing i r).spiFault = s.spiFault := by
  cases i <;> rfl

@[simp] theorem State.setRing_beacon (i : RingId) (r : Ring) : (s.setRing i r).beacon = s.beacon := by
  cases i <;> rfl

@[simp] theorem State.setRing_mainRb (i : RingId) (r : Ring) : (s.setRing i r).mainRb = s.mainRb := by
  cases i <;> rfl

@[simp] theorem State.setRing_service (i : RingId) (r : Ring) : (s.setRing i r).service = s.service := by
  cases i <;> rfl

@[simp] theorem State.setRing_msg (i : RingId) (r : Ring) : (s.setRing i r).msg = s.msg := by
  cases i <;> rfl

@[simp] theorem State.setRing_xfer (i : RingId) (r : Ring) : (s.setRing i r).xfer = s.xfer := by
  cases i <;> rfl

@[simp] theorem State.setRing_trace (i : RingId) (r : Ring) : (s.setRing i r).trace = s.trace := by
  cases i <;> rfl

@[simp] theorem State.setRing_epoch (i : RingId) (r : Ring) : (s.setRing i r).epoch = s.epoch := by
  cases i <;> rfl

@[simp] theorem State.setRing_env (i : RingId) (r : Ring) : (s.setRing i r).env = s.env := by
  cases i <;> rfl

@[simp] theorem State.ring_rb0 : s.ring .rb0 = s.rb0 := rfl

@[simp] theorem State.ring_rb1 : s.ring .rb1 = s.rb1 := rfl

@[simp] theorem State.ring_setRing (i : RingId) (r : Ring) : (s.setRing i r).ring i = r := by
  cases i <;> rfl

@[simp] theorem State.leaveHandler_eq : s.leaveHandler = s := rfl

end

end Sys2Proof.Machine
end

