-- ==== Sys2Proof/Laws/Bus.lean ====
section
/-! SUPPORT. What an SPI transaction and a sequence of bus actions can do, said once: the cases of one transaction, the footprint of a sequence, and the exact effect of register writes on a healthy bus. -/

namespace Sys2Proof.Machine

/-- Everything `spiTxn` can do (R141, R147): refused by `spi_fault`, failed by the transport, or done. -/
theorem spiTxn_cases (dir : Dir) (addr : RegAddr) (out : List Byte) (s : State) :
    (s.spiFault = true ∧ spiTxn dir addr out s = (none, s)) ∨
    (s.spiFault = false ∧ ∃ received,
      received = (match dir with | .rd => s.receivedBytes addr out.length | .wr => []) ∧
      ((s.nextAnswer.fails = true ∧
          spiTxn dir addr out s = (none, (s.afterTxn dir addr out received).setSpiFault)) ∨
        (s.nextAnswer.fails = false ∧
          spiTxn dir addr out s = (some received, s.afterTxn dir addr out received)))) := by
  by_cases h : s.spiFault = true
  · exact .inl ⟨h, by simp [spiTxn, h]⟩
  · refine .inr ⟨by simpa using h, _, rfl, ?_⟩
    by_cases h2 : s.nextAnswer.fails = true
    · exact .inl ⟨h2, by cases dir <;> simp [spiTxn, h, h2, State.afterTxn]⟩
    · exact .inr ⟨by simpa using h2, by cases dir <;> simp [spiTxn, h, h2, State.afterTxn]⟩

/-- The footprint of bus actions: only the trace, `spi_fault` and the answers in store change; the trace
is extended; `spi_fault` is sticky, and while it is set no transaction is added. -/
structure BusOnly (s t : State) : Prop where
  frame : t = { s with
    trace := t.trace
    spiFault := t.spiFault
    env := { s.env with answers := t.env.answers } }
  extends_trace : s.trace <+: t.trace
  sticky : s.spiFault = true → t.spiFault = true
  silent : s.spiFault = true → t.spiEvents = s.spiEvents

theorem BusOnly.refl (s : State) : BusOnly s s := ⟨Eq.refl _, List.prefix_refl _, id, fun _ => Eq.refl _⟩

theorem BusOnly.trans {s t u : State} (h : BusOnly s t) (k : BusOnly t u) : BusOnly s u := by
  refine ⟨?_, h.extends_trace.trans k.extends_trace, k.sticky ∘ h.sticky, fun hs =>
    (k.silent (h.sticky hs)).trans (h.silent hs)⟩
  have hk := k.frame
  have hh := h.frame
  rw [hk, hh]

theorem spiTxn_busOnly (dir : Dir) (addr : RegAddr) (out : List Byte) (s : State) :
    BusOnly s (spiTxn dir addr out s).2 := by
  rcases spiTxn_cases dir addr out s with ⟨_, h⟩ | ⟨hf, r, _, ⟨_, h⟩ | ⟨_, h⟩⟩ <;> rw [h]
  · exact BusOnly.refl s
  · exact ⟨Eq.refl _, ⟨_, Eq.refl _⟩, fun h => absurd h (by simp [hf]), fun h => absurd h (by simp [hf])⟩
  · exact ⟨Eq.refl _, ⟨_, Eq.refl _⟩, fun h => absurd h (by simp [hf]), fun h => absurd h (by simp [hf])⟩

theorem delay_busOnly (d : DelayName) (s : State) : BusOnly s (s.emit (.delay d)) :=
  ⟨Eq.refl _, ⟨_, Eq.refl _⟩, id, fun _ => by simp [State.spiEvents, TraceEvent.isSpi]⟩

/-- Everything a sequence of bus actions can change. -/
theorem busRun_busOnly (ops : List BusOp) (s : State) : BusOnly s (busRun ops s).2 := by
  induction ops generalizing s with
  | nil => exact BusOnly.refl s
  | cons op ops ih =>
    cases op with
    | delay d => exact (delay_busOnly d s).trans (ih _)
    | write addr data =>
      have h := spiTxn_busOnly .wr addr data s
      simp only [busRun]
      split
      · rename_i e; exact e ▸ h
      · rename_i e; rw [e] at h; exact h.trans (ih _)
    | read addr n =>
      have h := spiTxn_busOnly .rd addr (List.replicate n 0x00#8) s
      simp only [busRun]
      split
      · rename_i e; exact e ▸ h
      · rename_i bytes s1 e
        have h2 := BusOnly.trans (e ▸ h) (ih s1)
        split
        · rename_i e2; rw [e2] at h2; exact h2
        · rename_i e2; rw [e2] at h2; exact h2

/-- A sequence that meets a failure leaves `spi_fault` set (R147). -/
theorem busRun_fail {ops : List BusOp} {s : State} (h : (busRun ops s).1 = none) :
    (busRun ops s).2.spiFault = true := by
  induction ops generalizing s with
  | nil => simp [busRun] at h
  | cons op ops ih =>
    have key : ∀ dir addr out, (spiTxn dir addr out s).1 = none →
        (spiTxn dir addr out s).2.spiFault = true := by
      intro dir addr out hn
      rcases spiTxn_cases dir addr out s with ⟨h, e⟩ | ⟨_, r, _, ⟨_, e⟩ | ⟨_, e⟩⟩ <;> rw [e] at hn ⊢
      · exact h
      · simp
      · simp at hn
    cases op with
    | delay d => exact ih h
    | write addr data =>
      have hk := key .wr addr data
      simp only [busRun] at h ⊢
      split
      · rename_i e; rw [e] at hk; exact hk (Eq.refl _)
      · rename_i e; rw [e] at h; exact ih h
    | read addr n =>
      have hk := key .rd addr (List.replicate n 0x00#8)
      simp only [busRun] at h ⊢
      split
      · rename_i e; rw [e] at hk; exact hk (Eq.refl _)
      · rename_i bytes s1 e
        rw [e] at h
        simp only at h
        split
        · rename_i e2; have := ih (s := s1) (by rw [e2]); rw [e2] at this; exact this
        · rename_i e2; rw [e2] at h; simp at h

/-- Number of bytes a sequence of bus actions reads. -/
def bytesRead : List BusOp → Nat
  | [] => 0
  | .read _ n :: ops => n + bytesRead ops
  | .write _ _ :: ops => bytesRead ops
  | .delay _ :: ops => bytesRead ops

@[simp] theorem receivedBytes_length (s : State) (addr : RegAddr) (n : Nat) :
    (s.receivedBytes addr n).length = n := by simp [State.receivedBytes]

/-- A sequence that succeeds gives exactly the bytes of its reads. -/
theorem busRun_length {ops : List BusOp} {s : State} {bytes : List Byte}
    (h : (busRun ops s).1 = some bytes) : bytes.length = bytesRead ops := by
  induction ops generalizing s bytes with
  | nil => simp only [busRun, Option.some.injEq] at h; simp [bytesRead, ← h]
  | cons op ops ih =>
    cases op with
    | delay d => exact ih h
    | write addr data =>
      simp only [busRun] at h
      split at h
      · simp at h
      · exact ih h
    | read addr n =>
      simp only [busRun] at h
      split at h
      · simp at h
      · rename_i r s1 e
        split at h
        · simp at h
        · rename_i more s2 e2
          simp only [Option.some.injEq] at h
          have hr : r.length = n := by
            rcases spiTxn_cases .rd addr (List.replicate n 0x00#8) s with
              ⟨_, e'⟩ | ⟨_, r', hr', ⟨_, e'⟩ | ⟨_, e'⟩⟩ <;> rw [e'] at e
            · simp at e
            · simp at e
            · simp only [Prod.mk.injEq, Option.some.injEq] at e
              rw [← e.1, hr']
              simp
          have hm := ih (s := s1) (bytes := more) (by rw [e2])
          rw [← h, List.length_append, hr, hm]
          rfl

/-! ## A healthy bus -/

theorem BusHealthy.head {s : State} {n : Nat} (h : s.BusHealthy (n + 1)) : s.nextAnswer.fails = false := by
  unfold State.nextAnswer
  split
  · rfl
  · rename_i a l e
    exact h.2 a (by rw [e]; simp)

theorem BusHealthy.next {s : State} {n : Nat} (h : s.BusHealthy (n + 1)) (dir : Dir) (addr : RegAddr)
    (out received : List Byte) : (s.afterTxn dir addr out received).BusHealthy n := by
  refine ⟨h.1, fun a ha => h.2 a ?_⟩
  have e : (s.afterTxn dir addr out received).env.answers = s.env.answers.tail := rfl
  rw [e] at ha
  cases hl : s.env.answers with
  | nil => simp [hl] at ha
  | cons b l => rw [hl] at ha; simpa using .inr ha

theorem spiTxn_healthy {s : State} {n : Nat} (h : s.BusHealthy (n + 1)) (dir : Dir) (addr : RegAddr)
    (out : List Byte) :
    spiTxn dir addr out s =
      (some (match dir with | .rd => s.receivedBytes addr out.length | .wr => []),
        s.afterTxn dir addr out (match dir with | .rd => s.receivedBytes addr out.length | .wr => [])) := by
  rcases spiTxn_cases dir addr out s with ⟨hf, _⟩ | ⟨_, r, hr, ⟨hf, _⟩ | ⟨_, e⟩⟩
  · exact absurd hf (by simp [h.1])
  · exact absurd hf (by simp [BusHealthy.head h])
  · rw [e, hr]

/-- Register writes on a healthy bus append their events in order and use up one answer each. -/
theorem busRun_writes {l : ConfigList} {ops : List BusOp} {s : State} {n : Nat}
    (h : s.BusHealthy (l.length + n)) :
    busRun (configWrites l ++ ops) s = busRun ops ((s.dropAnswers l.length).log (writeEvents l)) := by
  induction l generalizing s with
  | nil => simp [configWrites, writeEvents, State.log, State.dropAnswers, State.setEnv]
  | cons e l ih =>
    have h1 : s.BusHealthy ((l.length + n) + 1) := by
      rw [List.length_cons] at h
      convert h using 1
      omega
    have h2 := BusHealthy.next h1 .wr e.1 [e.2] []
    simp only [configWrites, List.map_cons, List.cons_append, BusOp.regWrite, busRun,
      spiTxn_healthy h1]
    rw [show (List.map (fun e => BusOp.write e.1 [e.2]) l) = configWrites l from rfl, ih h2]
    congr 1
    simp [State.afterTxn, State.log, State.dropAnswers, State.setEnv, State.dropAnswer, State.emit,
      writeEvents]

/-- One write on a healthy bus, the rest of the sequence after it. -/
theorem busRun_write_healthy {s : State} {n : Nat} (h : s.BusHealthy (n + 1)) (addr : RegAddr)
    (data : List Byte) (ops : List BusOp) :
    busRun (.write addr data :: ops) s = busRun ops (s.afterTxn .wr addr data []) := by
  simp only [busRun, spiTxn_healthy h]

/-- One read on a healthy bus, the rest of the sequence after it. -/
theorem busRun_read_healthy {s : State} {n : Nat} (h : s.BusHealthy (n + 1)) (addr : RegAddr) (k : Nat)
    (ops : List BusOp) :
    busRun (.read addr k :: ops) s =
      ((busRun ops (s.afterTxn .rd addr (List.replicate k 0x00#8) (s.receivedBytes addr k))).1.map
          (s.receivedBytes addr k ++ ·),
        (busRun ops (s.afterTxn .rd addr (List.replicate k 0x00#8) (s.receivedBytes addr k))).2) := by
  simp only [busRun, spiTxn_healthy h, List.length_replicate]
  cases busRun ops (s.afterTxn .rd addr (List.replicate k 0x00#8) (s.receivedBytes addr k)) with
  | mk a b => cases a <;> rfl

/-- With `spi_fault` set a sequence that begins with a transaction does nothing (R34, R147). -/
theorem busRun_faulted {s : State} (h : s.spiFault = true) (ops : List BusOp) :
    (∀ addr data, busRun (.write addr data :: ops) s = (none, s)) ∧
      (∀ addr n, busRun (.read addr n :: ops) s = (none, s)) := by
  simp [busRun, spiTxn, h]

/-- A first transaction the transport fails ends the sequence with its event in the trace and
`spi_fault` set (R141, R147). -/
theorem busRun_first_fails {s : State} (h : s.spiFault = false) (hf : s.nextAnswer.fails = true)
    (ops : List BusOp) :
    (∀ addr data, busRun (.write addr data :: ops) s =
      (none, (s.afterTxn .wr addr data []).setSpiFault)) ∧
      (∀ addr n, busRun (.read addr n :: ops) s =
        (none, (s.afterTxn .rd addr (List.replicate n 0x00#8) (s.receivedBytes addr n)).setSpiFault)) := by
  simp [busRun, spiTxn, h, hf, State.afterTxn]

/-! ## A transport failure in the middle (R147) -/

/-- `s` after the transport failed a transaction made from it, earlier events and answers apart. -/
def State.afterFailure (s : State) (es : List TraceEvent) (n : Nat) : State :=
  { s with spiFault := true, trace := s.trace ++ es, env := { s.env with answers := s.env.answers.drop n } }

theorem FailsAt.zero {s : State} (h : s.FailsAt 0) : s.nextAnswer.fails = true := by
  obtain ⟨_, _, a, ha, hf⟩ := h
  unfold State.nextAnswer
  cases hl : s.env.answers with
  | nil => simp [hl] at ha
  | cons b l =>
    rw [hl] at ha
    simp only [List.getElem?_cons_zero, Option.some.injEq] at ha
    simpa [ha] using hf

theorem FailsAt.head {s : State} {k : Nat} (h : s.FailsAt (k + 1)) : s.BusHealthy 1 := by
  refine ⟨h.1, fun a ha => h.2.1 a ?_⟩
  cases hl : s.env.answers with
  | nil => simp [hl] at ha
  | cons b l => rw [hl] at ha; simp at ha; simp [ha]

theorem FailsAt.next {s : State} {k : Nat} (h : s.FailsAt (k + 1)) (dir : Dir) (addr : RegAddr)
    (out received : List Byte) : (s.afterTxn dir addr out received).FailsAt k := by
  have e : (s.afterTxn dir addr out received).env.answers = s.env.answers.tail := rfl
  obtain ⟨hs, hp, a, ha, hf⟩ := h
  cases hl : s.env.answers with
  | nil => simp [hl] at ha
  | cons b l =>
    rw [hl] at ha hp
    refine ⟨hs, fun x hx => hp x ?_, a, ?_, hf⟩
    · rw [e, hl] at hx
      simpa using .inr hx
    · rw [e, hl]
      simpa using ha

theorem FailsAt.emit {s : State} {k : Nat} (h : s.FailsAt k) (e : TraceEvent) : (s.emit e).FailsAt k := h

/-- Register writes of which the transport fails one: those up to it are traced, no later one. -/
theorem busRun_writes_failsAt {l : ConfigList} {s : State} {k : Nat} (h : s.FailsAt k)
    (hk : k < l.length) :
    busRun (configWrites l) s = (none, s.afterFailure (writeEvents (l.take (k + 1))) (k + 1)) := by
  induction l generalizing s k with
  | nil => simp at hk
  | cons e l ih =>
    cases k with
    | zero =>
      have := (busRun_first_fails h.1 (FailsAt.zero h) (configWrites l)).1 e.1 [e.2]
      rw [show configWrites (e :: l) = .write e.1 [e.2] :: configWrites l from rfl, this]
      simp [State.afterTxn, State.setSpiFault, State.afterFailure, writeEvents, State.dropAnswer,
        State.setEnv, State.emit]
    | succ k =>
      have h2 := ih (FailsAt.next h .wr e.1 [e.2] []) (by simpa using hk)
      rw [show configWrites (e :: l) = .write e.1 [e.2] :: configWrites l from rfl,
        busRun_write_healthy (FailsAt.head h), h2]
      simp [State.afterTxn, State.afterFailure, writeEvents, State.dropAnswer, State.setEnv, State.emit]

/-- How many of a sequence of bus actions are transactions. -/
def transactions : List BusOp → Nat
  | [] => 0
  | .delay _ :: ops => transactions ops
  | .write _ _ :: ops => transactions ops + 1
  | .read _ _ :: ops => transactions ops + 1

theorem healed_busHealthy {s : State} (h : s.spiFault = false) (n : Nat) : s.healed.BusHealthy n := by
  refine ⟨h, fun a ha => ?_⟩
  have hm := List.mem_of_mem_take ha
  simp only [State.healed, State.setEnv, List.mem_map] at hm
  obtain ⟨b, _, rfl⟩ := hm
  rfl

theorem healed_receivedBytes (s : State) (addr : RegAddr) (n : Nat) :
    s.healed.receivedBytes addr n = s.receivedBytes addr n := by
  have hn : s.healed.nextAnswer.received = s.nextAnswer.received := by
    unfold State.nextAnswer State.healed State.setEnv
    cases h : s.env.answers <;> simp
  unfold State.receivedBytes
  rw [hn]
  rfl

theorem healed_afterTxn (s : State) (dir : Dir) (addr : RegAddr) (out received : List Byte) :
    s.healed.afterTxn dir addr out received = (s.afterTxn dir addr out received).healed := by
  simp [State.healed, State.afterTxn, State.dropAnswer, State.setEnv, State.emit, List.map_tail]

/-- A sequence of which the transport fails the `k+1`-th transaction, beside the run in which nothing
fails: the events up to the failed one, in the same order, and nothing after it. -/
theorem busRun_failsAt {ops : List BusOp} {s : State} {k : Nat} (h : s.FailsAt k)
    (hk : k < transactions ops) :
    ∃ before failed after, (busRun ops s.healed).2.trace = s.trace ++ (before ++ failed :: after) ∧
      failed.isSpi = true ∧ (before.filter TraceEvent.isSpi).length = k ∧
      busRun ops s = (none, s.afterFailure (before ++ [failed]) (k + 1)) := by
  induction ops generalizing s k with
  | nil => simp [transactions] at hk
  | cons op ops ih =>
    have first : ∀ dir addr out received (u : State),
        (busRun ops (s.healed.afterTxn dir addr out received)).2 = u →
        ∃ after, u.trace = s.trace ++ ([] ++ .spi dir addr out received :: after) := by
      intro dir addr out received u hu
      obtain ⟨es, he⟩ := (busRun_busOnly ops (s.healed.afterTxn dir addr out received)).extends_trace
      refine ⟨es, ?_⟩
      rw [← hu, ← he]
      simp [State.afterTxn, State.healed, State.dropAnswer, State.setEnv, State.emit]
    have later : ∀ dir addr out received j, k = j + 1 → j < transactions ops →
        ∃ before failed after,
          (busRun ops (s.healed.afterTxn dir addr out received)).2.trace =
            s.trace ++ (before ++ failed :: after) ∧
          failed.isSpi = true ∧ (before.filter TraceEvent.isSpi).length = k ∧
          busRun ops (s.afterTxn dir addr out received) =
            (none, s.afterFailure (before ++ [failed]) (k + 1)) := by
      rintro dir addr out received j rfl hj
      obtain ⟨before, failed, after, e1, e2, e3, e4⟩ := ih (FailsAt.next h dir addr out received) hj
      rw [← healed_afterTxn] at e1
      refine ⟨.spi dir addr out received :: before, failed, after, ?_, e2, ?_, ?_⟩
      · rw [e1]
        simp [State.afterTxn, State.dropAnswer, State.setEnv, State.emit]
      · rw [List.filter_cons_of_pos rfl, List.length_cons, e3]
      · rw [e4]
        simp [State.afterTxn, State.afterFailure, State.dropAnswer, State.setEnv, State.emit]
    have hh := healed_busHealthy h.1 1
    cases op with
    | delay d =>
      obtain ⟨before, failed, after, e1, e2, e3, e4⟩ := ih (FailsAt.emit h (.delay d)) hk
      refine ⟨.delay d :: before, failed, after, ?_, e2, by simpa [TraceEvent.isSpi] using e3, ?_⟩
      · rw [show busRun (.delay d :: ops) s.healed = busRun ops (s.emit (.delay d)).healed from rfl, e1]
        simp [State.emit]
      · rw [show busRun (.delay d :: ops) s = busRun ops (s.emit (.delay d)) from rfl, e4]
        simp [State.emit, State.afterFailure]
    | write addr data =>
      rw [busRun_write_healthy hh]
      cases k with
      | zero =>
        obtain ⟨after, ha⟩ := first .wr addr data [] _ rfl
        refine ⟨[], _, after, ha, rfl, rfl, ?_⟩
        rw [(busRun_first_fails h.1 (FailsAt.zero h) ops).1 addr data]
        simp [State.afterTxn, State.setSpiFault, State.afterFailure, State.dropAnswer, State.setEnv,
          State.emit]
      | succ k =>
        rw [busRun_write_healthy (FailsAt.head h)]
        exact later .wr addr data [] k rfl (by simpa [transactions] using hk)
    | read addr n =>
      rw [busRun_read_healthy hh, healed_receivedBytes]
      cases k with
      | zero =>
        obtain ⟨after, ha⟩ := first .rd addr (List.replicate n 0x00#8) (s.receivedBytes addr n) _ rfl
        refine ⟨[], _, after, ha, rfl, rfl, ?_⟩
        rw [(busRun_first_fails h.1 (FailsAt.zero h) ops).2 addr n]
        simp [State.afterTxn, State.setSpiFault, State.afterFailure, State.dropAnswer, State.setEnv,
          State.emit]
      | succ k =>
        rw [busRun_read_healthy (FailsAt.head h)]
        obtain ⟨before, failed, after, e1, e2, e3, e4⟩ :=
          later .rd addr (List.replicate n 0x00#8) (s.receivedBytes addr n) k rfl
            (by simpa [transactions] using hk)
        exact ⟨before, failed, after, e1, e2, e3, by rw [e4]; rfl⟩

/-- One scripted byte is what a one-byte read receives (R145). -/
theorem receivedBytes_scripted {s : State} {a : Byte} {f : Bool} {l : List Answer}
    (h : s.env.answers = ⟨[a], f⟩ :: l) (addr : RegAddr) : s.receivedBytes addr 1 = [a] := by
  simp [State.receivedBytes, State.nextAnswer, h]

/-- A one-byte read receives one byte. -/
theorem receivedBytes_one (s : State) (addr : RegAddr) : ∃ v, s.receivedBytes addr 1 = [v] := by
  simp [State.receivedBytes]

/-- Writes of any data on a healthy bus append their events in order, use up one answer each, and leave
the bus healthy for what follows. -/
theorem busRun_dataWrites {l : List (RegAddr × List Byte)} {ops : List BusOp} {s : State} {n : Nat}
    (h : s.BusHealthy (l.length + n)) :
    busRun (l.map (fun e => BusOp.write e.1 e.2) ++ ops) s =
        busRun ops ((s.dropAnswers l.length).log (l.map fun e => .spi .wr e.1 e.2 [])) ∧
      ((s.dropAnswers l.length).log (l.map fun e => .spi .wr e.1 e.2 [])).BusHealthy n := by
  induction l generalizing s with
  | nil =>
    exact ⟨by simp [State.log, State.dropAnswers, State.setEnv],
      by simpa [State.log, State.dropAnswers, State.setEnv] using h⟩
  | cons e l ih =>
    have h1 : s.BusHealthy ((l.length + n) + 1) := by
      rw [List.length_cons] at h
      convert h using 1
      omega
    obtain ⟨a, b⟩ := ih (BusHealthy.next h1 .wr e.1 e.2 [])
    have e2 : ((s.afterTxn .wr e.1 e.2 []).dropAnswers l.length).log
          (l.map fun e => .spi .wr e.1 e.2 []) =
        (s.dropAnswers (e :: l).length).log ((e :: l).map fun e => .spi .wr e.1 e.2 []) := by
      simp [State.afterTxn, State.log, State.dropAnswers, State.setEnv, State.dropAnswer, State.emit]
    rw [e2] at a b
    refine ⟨?_, b⟩
    rw [← a]
    simp only [List.map_cons, List.cons_append, busRun_write_healthy h1]

/-- Two one-byte reads on a healthy bus. -/
theorem busRun_twoReads {s : State} {n : Nat} (h : s.BusHealthy (n + 2)) (a b : RegAddr) :
    ∃ x y : Byte, busRun [.regRead a, .regRead b] s =
        (some [x, y], (s.afterTxn .rd a [0x00#8] [x]).afterTxn .rd b [0x00#8] [y]) ∧
      ((s.afterTxn .rd a [0x00#8] [x]).afterTxn .rd b [0x00#8] [y]).BusHealthy n ∧
      (∀ u v f g l, s.env.answers = ⟨[u], f⟩ :: ⟨[v], g⟩ :: l → x = u ∧ y = v) := by
  obtain ⟨x, hx⟩ := receivedBytes_one s a
  have h2 := BusHealthy.next (n := n + 1) h .rd a [0x00#8] [x]
  obtain ⟨y, hy⟩ := receivedBytes_one (s.afterTxn .rd a [0x00#8] [x]) b
  refine ⟨x, y, ?_, BusHealthy.next h2 .rd b [0x00#8] [y], ?_⟩
  · simp only [BusOp.regRead, busRun_read_healthy (n := n + 1) h, hx,
      show List.replicate 1 0x00#8 = [0x00#8] from rfl, busRun_read_healthy h2, hy]
    simp [busRun]
  · intro u v f g l ha
    have ha2 : (s.afterTxn .rd a [0x00#8] [x]).env.answers = ⟨[v], g⟩ :: l := by
      simp [State.afterTxn, State.dropAnswer, State.setEnv, State.emit, ha]
    rw [receivedBytes_scripted ha] at hx
    rw [receivedBytes_scripted ha2] at hy
    simp_all

/-- Events other than `Result` are added to the trace. -/
def AddsNoResult (s t : State) : Prop :=
  ∃ es, t.trace = s.trace ++ es ∧ ∀ st v, TraceEvent.result st v ∉ es

theorem AddsNoResult.refl (s : State) : AddsNoResult s s := ⟨[], by simp, by simp⟩

theorem AddsNoResult.trans {s t u : State} (h : AddsNoResult s t) (k : AddsNoResult t u) :
    AddsNoResult s u := by
  obtain ⟨es, e, hn⟩ := h
  obtain ⟨fs, f, hm⟩ := k
  refine ⟨es ++ fs, by rw [f, e, List.append_assoc], fun st v hc => ?_⟩
  rcases List.mem_append.mp hc with hc | hc
  · exact hn st v hc
  · exact hm st v hc

theorem spiTxn_addsNoResult (dir : Dir) (addr : RegAddr) (out : List Byte) (s : State) :
    AddsNoResult s (spiTxn dir addr out s).2 := by
  rcases spiTxn_cases dir addr out s with ⟨_, h⟩ | ⟨_, r, _, ⟨_, h⟩ | ⟨_, h⟩⟩ <;> rw [h]
  · exact AddsNoResult.refl s
  · exact ⟨[.spi dir addr out r], rfl, by simp⟩
  · exact ⟨[.spi dir addr out r], rfl, by simp⟩

/-- No bus action adds a `Result` event. -/
theorem busRun_addsNoResult (ops : List BusOp) (s : State) : AddsNoResult s (busRun ops s).2 := by
  induction ops generalizing s with
  | nil => exact AddsNoResult.refl s
  | cons op ops ih =>
    cases op with
    | delay d => exact AddsNoResult.trans ⟨[.delay d], rfl, by simp⟩ (ih _)
    | write addr data =>
      have h := spiTxn_addsNoResult .wr addr data s
      simp only [busRun]
      split
      · rename_i e; exact e ▸ h
      · rename_i e; rw [e] at h; exact h.trans (ih _)
    | read addr n =>
      have h := spiTxn_addsNoResult .rd addr (List.replicate n 0x00#8) s
      simp only [busRun]
      split
      · rename_i e; exact e ▸ h
      · rename_i bytes s1 e
        have h2 := AddsNoResult.trans (e ▸ h) (ih s1)
        split
        · rename_i e2; rw [e2] at h2; exact h2
        · rename_i e2; rw [e2] at h2; exact h2

end Sys2Proof.Machine
end

