-- ==== Sys2Proof/Laws/Encoding.lean ====
section
/-! SUPPORT. The fields of a command word, said once: what each field of an assembled word is, and that a word is its fields put back together. -/

namespace Sys2Proof

theorem opField_word (op hi lo : Byte) : opField (word op hi lo) = op := by
  apply BitVec.eq_of_getLsbD_eq
  intro k hk
  simp [opField, word]
  grind

theorem hiField_word (op hi lo : Byte) : hiField (word op hi lo) = hi := by
  apply BitVec.eq_of_getLsbD_eq
  intro k hk
  simp [hiField, word]
  grind

theorem loField_word (op hi lo : Byte) : loField (word op hi lo) = lo := by
  apply BitVec.eq_of_getLsbD_eq
  intro k hk
  simp [loField, word]
  grind

theorem argField_word (op hi lo : Byte) : argField (word op hi lo) = hi ++ lo := by
  apply BitVec.eq_of_getLsbD_eq
  intro k hk
  simp [argField, word]
  grind

theorem addrField_word (op lo : Byte) (a : RegAddr) : addrField (word op (addrByte a) lo) = a := by
  apply BitVec.eq_of_getLsbD_eq
  intro k hk
  simp [addrField, word, addrByte]
  grind

theorem opField_append (op : Byte) (arg : Half) : opField (op ++ arg) = op := by
  apply BitVec.eq_of_getLsbD_eq
  intro k hk
  simp [opField]
  grind

theorem argField_append (op : Byte) (arg : Half) : argField (op ++ arg) = arg := by
  apply BitVec.eq_of_getLsbD_eq
  intro k hk
  simp [argField]
  grind

theorem addrByte_msb (a : RegAddr) : (addrByte a).msb = false := by
  unfold addrByte
  rw [BitVec.msb_append]
  simp

/-- A word is its opcode and its argument (R90). -/
theorem word_eq_append (w : Word) : w = opField w ++ argField w := by
  apply BitVec.eq_of_getLsbD_eq
  intro k hk
  simp [opField, argField]
  grind

/-- A word is its opcode and its two argument bytes (R90, R91). -/
theorem word_eq_word (w : Word) : w = word (opField w) (hiField w) (loField w) := by
  apply BitVec.eq_of_getLsbD_eq
  intro k hk
  simp [opField, hiField, loField, word]
  grind

/-- The argument is its two bytes (R91). -/
theorem argField_eq (w : Word) : argField w = hiField w ++ loField w := by
  apply BitVec.eq_of_getLsbD_eq
  intro k hk
  simp [hiField, loField, argField]
  grind

/-- The high argument byte of formats A and AV is the register address with bit 7 clear (R93). -/
theorem addrByte_addrField {w : Word} (h : (hiField w).msb = false) : addrByte (addrField w) = hiField w := by
  apply BitVec.eq_of_getLsbD_eq
  intro k hk
  simp only [BitVec.msb_eq_getLsbD_last, hiField, addrField, addrByte, BitVec.getLsbD_append,
    BitVec.getLsbD_extractLsb'] at *
  by_cases h7 : k < 7
  · simp [h7, hk]
  · have : k = 7 := by omega
    subst this
    simpa using h.symm

/-- Two words are equal when their three fields are. -/
theorem word_ext {v w : Word} (ho : opField v = opField w) (hh : hiField v = hiField w)
    (hl : loField v = loField w) : v = w := by
  rw [word_eq_word v, word_eq_word w, ho, hh, hl]

theorem opField_and (v w : Word) : opField (v &&& w) = opField v &&& opField w := BitVec.extractLsb'_and

theorem hiField_and (v w : Word) : hiField (v &&& w) = hiField v &&& hiField w := BitVec.extractLsb'_and

theorem loField_and (v w : Word) : loField (v &&& w) = loField v &&& loField w := BitVec.extractLsb'_and

theorem hiField_append (op : Byte) (arg : Half) : hiField (op ++ arg) = arg.extractLsb' 8 8 := by
  apply BitVec.eq_of_getLsbD_eq
  intro k hk
  simp [hiField]
  grind

theorem loField_append (op : Byte) (arg : Half) : loField (op ++ arg) = arg.extractLsb' 0 8 := by
  apply BitVec.eq_of_getLsbD_eq
  intro k hk
  simp [loField]
  grind

/-- A word matches a row of the opcode table field by field (R112). -/
theorem accepts_iff (r : OpcodeRow) (w : Word) :
    r.accepts w = true ↔ opField w &&& opField r.mask = opField r.pattern ∧
      hiField w &&& hiField r.mask = hiField r.pattern ∧
      loField w &&& loField r.mask = loField r.pattern := by
  unfold OpcodeRow.accepts
  rw [beq_iff_eq]
  constructor
  · intro h
    rw [← opField_and, ← hiField_and, ← loField_and, h]
    exact ⟨rfl, rfl, rfl⟩
  · rintro ⟨h1, h2, h3⟩
    exact word_ext (by rw [opField_and, h1]) (by rw [hiField_and, h2]) (by rw [loField_and, h3])

end Sys2Proof
end

