-- ==== Sys2Proof/Laws/Radio.lean ====
section
/-! SUPPORT. What the operating-mode state machine can do, said once: the cases of a transition, its exact effect on a healthy bus, and the cases of `SetState`. -/

namespace Sys2Proof.Machine

/-- The writes of a transition are those of its list (R171). -/
theorem transitionWrites_eq (p : Params) (c : RadioState) (t : Target) :
    transitionWrites p c t = configWrites (transitionList p c t) := by
  unfold transitionWrites transitionList configWrites
  split <;> simp

/-- Everything a transition can do: it fails on the bus and leaves `RadioState`, or it ends in its
target (R147, R171). -/
theorem enterTarget_cases (t : Target) (s : State) :
    ∃ u, BusOnly s u ∧
      ((enterTarget t s = (.transportError, u) ∧ u.spiFault = true) ∨
        enterTarget t s = (⟨.ok, (t.state.code).setWidth 16⟩, u.setRadioState t.state)) := by
  have h := busRun_busOnly (transitionWrites s.params s.radioState t) s
  have hf := busRun_fail (ops := transitionWrites s.params s.radioState t) (s := s)
  unfold enterTarget
  split
  · rename_i e
    rw [e] at h
    exact ⟨_, h, .inr rfl⟩
  · rename_i e
    rw [e] at h hf
    exact ⟨_, h, .inl ⟨rfl, hf rfl⟩⟩

/-- A transition that answers is done and succeeded, exactly when its status is `Ok`. -/
theorem enterTarget_status (t : Target) (s : State) :
    (enterTarget t s).1.status = .ok ∨ (enterTarget t s).1.status = .transportError := by
  obtain ⟨u, _, ⟨e, _⟩ | e⟩ := enterTarget_cases t s <;> rw [e] <;> simp [Reply.transportError]

/-- A transition on a bus that answers (R171). -/
theorem enterTarget_healthy {s : State} {t : Target} {n : Nat}
    (h : s.BusHealthy ((transitionList s.params s.radioState t).length + n)) :
    enterTarget t s = (⟨.ok, (t.state.code).setWidth 16⟩,
      ((s.dropAnswers (transitionList s.params s.radioState t).length).log
        (writeEvents (transitionList s.params s.radioState t))).setRadioState t.state) := by
  have e := busRun_writes (ops := []) h
  unfold enterTarget
  rw [transitionWrites_eq]
  rw [List.append_nil] at e
  rw [e]
  rfl

/-- A transition with `spi_fault` set makes no transaction (R34). -/
theorem enterTarget_faulted {s : State} (h : s.spiFault = true) (t : Target) :
    enterTarget t s = (.transportError, s) := by
  have hc : ∀ x l, busRun (configWrites (x :: l)) s = (none, s) := fun x l =>
    (busRun_faulted h (configWrites l)).1 x.1 [x.2]
  have hne : ∃ x l, transitionList s.params s.radioState t = x :: l := by
    unfold transitionList
    split
    · exact ⟨_, _, rfl⟩
    · cases s.params.modeList t <;> exact ⟨_, _, rfl⟩
  obtain ⟨x, l, e⟩ := hne
  unfold enterTarget
  rw [transitionWrites_eq, e, hc]

/-- A transition of which the transport fails a write (R147, R171). -/
theorem enterTarget_failsAt {s : State} {t : Target} {k : Nat} (h : s.FailsAt k)
    (hk : k < (transitionList s.params s.radioState t).length) :
    enterTarget t s = (.transportError,
      s.afterFailure (writeEvents ((transitionList s.params s.radioState t).take (k + 1))) (k + 1)) := by
  unfold enterTarget
  rw [transitionWrites_eq, busRun_writes_failsAt h hk]

/-- Everything `SetState` can do (R171, R172): refuse without touching anything, or make a transition. -/
theorem setState_cases (b : Byte) (s : State) :
    (RadioState.ofByte b = none ∧ setState b s = (.illegalOperand, s)) ∨
    (∃ r, RadioState.ofByte b = some r ∧ r.target = none ∧ setState b s = (⟨.notImplemented, 0#16⟩, s)) ∨
    (∃ r t, RadioState.ofByte b = some r ∧ r.target = some t ∧ t.state = r ∧
      setState b s = enterTarget t s) := by
  unfold setState
  cases h : RadioState.ofByte b with
  | none => exact .inl ⟨rfl, rfl⟩
  | some r =>
    cases h2 : r.target with
    | none => exact .inr (.inl ⟨r, rfl, h2, by simp [h2]⟩)
    | some t =>
      refine .inr (.inr ⟨r, t, rfl, h2, ?_, by simp [h2]⟩)
      cases r <;> simp_all [RadioState.target] <;> subst h2 <;> rfl

end Sys2Proof.Machine
end

