-- ==== Sys2Proof/Laws/Exec.lean ====
section
/-! SUPPORT. What a command can do to the state, said once for all 23: an inductive list of effects, and that every meaning answers with one of them. -/

namespace Sys2Proof.Machine

/-- The effects a command can have on the state it runs in (R120 to R262). -/
inductive Effect (s : State) : State → Prop
  /-- Only the `Result` event. -/
  | ends (r : Reply) : Effect s (s.finish r)
  /-- P1 of a put that found room (R122). -/
  | putInFlight (i : RingId) (b : Byte) (h : s.isFull i = false) :
      Effect s (s.setMainRb (.put i (s.ring i).head b .checked))
  /-- G1 of a get that found a byte (R124). -/
  | getInFlight (i : RingId) (h : s.isEmpty i = false) :
      Effect s (s.setMainRb (.get i (s.ring i).tail .checked))
  /-- G1 of `BEACON_SERVICE` (R260). -/
  | serviceInFlight (h : s.isEmpty .rb1 = false) :
      Effect s ((s.setMainRb (.get .rb1 (s.ring .rb1).tail .checked)).setService .getting)
  /-- `BEACON_SERVICE` as one step: its get and then `SetState` (R69, R260). -/
  | serviced (v : Byte) (t : State) (h : ringGet .rb1 s = some (v, t)) :
      Effect s ((setState v t).2.finish (setState v t).1)
  /-- Bus actions. -/
  | bus (u : State) (r : Reply) (h : BusOnly s u) : Effect s (u.finish r)
  /-- A burst read that succeeded (R150). -/
  | burstRead (u : State) (r : Reply) (bytes : List Byte) (h : BusOnly s u)
      (hn : bytes.length ≤ Config.xferSize) :
      Effect s ((u.setXfer (Memory.writeAll u.xfer 0 bytes)).finish r)
  /-- A transition of the radio (R171). -/
  | transition (t : Target) (r : Reply) : Effect s ((enterTarget t s).2.finish r)
  /-- `MORSE_START` (R203). -/
  | morseStart (len : Half) (r : Reply) (h : len.toNat ≤ s.params.msgSize) :
      Effect s ((s.setMorse ⟨0x00#8, 0x00#8, 0#16, len, true⟩).finish r)
  /-- `MORSE_TICK` (R205). -/
  | morseTick (r : Reply) : Effect s (s.morseStep.2.finish r)
  /-- `PN_INIT` (R235). -/
  | pnInit (n : Nat) (r : Reply) (h : n ≠ 0) (hn : n < 2 ^ s.params.pnN) :
      Effect s ((s.setPn ⟨n, n, 0#16, false⟩).finish r)
  /-- `PN_TICK` (R237). -/
  | pnTick (r : Reply) : Effect s (s.pnStep.2.finish r)
  /-- `BEACON_START` (R252). -/
  | start (m : Mode) (r : Reply) (h : s.beacon.mode = .off) (hm : m ≠ .off) :
      Effect s ((startMode m s).2.finish r)
  /-- `BEACON_STOP` (R258). -/
  | stop (r : Reply) : Effect s ((stopAction s).2.finish r)

/-- A one-step command that answers with a reply and a state. -/
theorem answer_next (x : Reply × State) : answer x = .next (x.2.finish x.1) := rfl

/-- `SetState` as the effect of a command. -/
theorem setState_effect (b : Byte) (s : State) : Effect s ((setState b s).2.finish (setState b s).1) := by
  rcases setState_cases b s with ⟨_, e⟩ | ⟨r, _, _, e⟩ | ⟨r, t, _, _, _, e⟩ <;> rw [e]
  · exact .ends _
  · exact .ends _
  · exact .transition t _

/-- Bus actions as the effect of a command. -/
theorem busRun_effect {ops : List BusOp} {s u : State} {x : Option (List Byte)} (r : Reply)
    (h : busRun ops s = (x, u)) : Effect s (u.finish r) := by
  have := busRun_busOnly ops s
  rw [h] at this
  exact .bus u r this

theorem Mode.ofOperand_ne_off {b : Byte} {m : Mode} (h : Mode.ofOperand b = some m) : m ≠ .off := by
  unfold Mode.ofOperand at h
  split at h <;> simp_all <;> subst h <;> simp

/-- Everything `BEACON_SERVICE` can do: refuse an empty queue, run whole, or put its get in flight (R260,
log 10). -/
theorem execBeaconService_cases (s : State) :
    (s.isEmpty .rb1 = true ∧ execBeaconService s = .next (s.finish ⟨.empty, 0#16⟩)) ∨
    (s.isEmpty .rb1 = false ∧ s.params.serviceReading = .oneStep ∧
      execBeaconService s = answer (setState (s.ringByte .rb1 (s.ring .rb1).tail)
        (ringPublishTail .rb1 (s.ring .rb1).tail s))) ∨
    (s.isEmpty .rb1 = false ∧ s.params.serviceReading = .microSteps ∧
      execBeaconService s =
        .next ((s.setMainRb (.get .rb1 (s.ring .rb1).tail .checked)).setService .getting)) := by
  unfold execBeaconService ringGet mainGetCheck
  cases h : s.isEmpty .rb1 <;> cases hr : s.params.serviceReading <;> simp [answer]

/-- Every command answers with a next state, and with nothing but one of the effects (R280). -/
theorem exec_effect (i : Instr) (s : State) : ∃ t, exec i s = .next t ∧ Effect s t := by
  cases i with
  | rbPut k b =>
    refine ⟨_, rfl, ?_⟩
    split
    · exact .ends _
    · unfold mainPutCheck
      split
      · exact .ends _
      · exact .putInFlight _ _ (by simp_all)
  | rbGet k =>
    refine ⟨_, rfl, ?_⟩
    split
    · exact .ends _
    · unfold mainGetCheck
      split
      · exact .ends _
      · exact .getInFlight _ (by simp_all)
  | rbLen k => exact ⟨_, rfl, .ends _⟩
  | rbPeek k n => exact ⟨_, rfl, .ends _⟩
  | rbIsFull k => exact ⟨_, rfl, .ends _⟩
  | rbIsEmpty k => exact ⟨_, rfl, .ends _⟩
  | regRead a =>
    refine ⟨_, rfl, ?_⟩
    split <;> exact busRun_effect _ ‹_›
  | regWrite a v =>
    refine ⟨_, rfl, ?_⟩
    split <;> exact busRun_effect _ ‹_›
  | regBurstRead a n =>
    refine ⟨_, rfl, ?_⟩
    split
    · rename_i hn
      split
      · rename_i bytes u e
        have hb := busRun_busOnly [.read a n.toNat] s
        have hl := busRun_length (ops := [.read a n.toNat]) (s := s) (bytes := bytes) (by rw [e])
        rw [e] at hb
        refine .burstRead u _ bytes hb ?_
        simp only [burstCountOk, Bool.and_eq_true, decide_eq_true_eq] at hn
        simp only [bytesRead] at hl
        omega
      · exact busRun_effect _ ‹_›
    · exact .ends _
  | regBurstWrite a n =>
    refine ⟨_, rfl, ?_⟩
    split
    · split <;> exact busRun_effect _ ‹_›
    · exact .ends _
  | radioReset =>
    refine ⟨_, rfl, ?_⟩
    split <;> exact busRun_effect _ ‹_›
  | radioCheckId =>
    refine ⟨_, rfl, ?_⟩
    split <;> exact busRun_effect _ ‹_›
  | radioApplyConfig k =>
    refine ⟨_, rfl, ?_⟩
    split
    · exact .ends _
    · split <;> exact busRun_effect _ ‹_›
  | radioSetState b => exact ⟨_, rfl, setState_effect b s⟩
  | radioLoadPacket n =>
    refine ⟨_, rfl, ?_⟩
    split
    · exact .ends _
    · split <;> exact busRun_effect _ ‹_›
  | morseStart len =>
    refine ⟨_, rfl, ?_⟩
    split
    · exact .ends _
    · exact .morseStart len _ (by omega)
  | morseTick => exact ⟨_, rfl, .morseTick _⟩
  | pnInit seed =>
    refine ⟨_, rfl, ?_⟩
    split
    · exact .ends _
    · rename_i h
      simp only [not_or, not_le] at h
      have e : truncW s.params.pnN seed.toNat = seed.toNat := Nat.mod_eq_of_lt h.2
      rw [e]
      refine .pnInit seed.toNat _ ?_ h.2
      intro h0
      exact h.1 (BitVec.eq_of_toNat_eq (by simpa using h0))
  | pnTick => exact ⟨_, rfl, .pnTick _⟩
  | beaconStart m =>
    refine ⟨_, rfl, ?_⟩
    split
    · exact .ends _
    · split
      · exact .start _ _ ‹_› (Mode.ofOperand_ne_off ‹_›)
      · exact .ends _
  | beaconStop => exact ⟨_, rfl, .stop _⟩
  | beaconService =>
    rcases execBeaconService_cases s with ⟨_, e⟩ | ⟨h, _, e⟩ | ⟨h, _, e⟩
    · exact ⟨_, e, .ends _⟩
    · exact ⟨_, e, .serviced _ _ (by simp [ringGet, h])⟩
    · exact ⟨_, e, .serviceInFlight h⟩
  | beaconStatus sel => exact ⟨_, rfl, .ends _⟩

end Sys2Proof.Machine
end

