-- ==== Sys2Proof/Laws/Generators.lean ====
section
/-! SUPPORT. What one step of the PN generator can do, said once (R237, R240, R243). -/

namespace Sys2Proof.Machine

/-- Everything one `PnStep` can do, its whole work: nothing when complete; else one `PnNext`, one compare
with the seed, and on a return one increment (R237, R240, R243). -/
theorem pnStep_cases (p : Params) (g : Pn) :
    (g.complete = true ∧ pnStep p g = (false, g)) ∨
    (g.complete = false ∧ pnNext p.pnN p.pnGpoly g.reg ≠ g.seed ∧
      pnStep p g =
        (g.reg.testBit (p.pnN - 1), { g with reg := pnNext p.pnN p.pnGpoly g.reg })) ∨
    (g.complete = false ∧ pnNext p.pnN p.pnGpoly g.reg = g.seed ∧
      pnStep p g =
        (g.reg.testBit (p.pnN - 1),
          ⟨g.seed, g.seed, g.periodCounter + 1#16, g.periodCounter + 1#16 == p.pnPeriodTarget⟩)) := by
  unfold pnStep
  cases h : g.complete <;> by_cases hs : pnNext p.pnN p.pnGpoly g.reg = g.seed <;> simp [hs]

end Sys2Proof.Machine
end

