-- ==== Sys2Proof/Laws/Step.lean ====
section
/-! SUPPORT. What one step can do, said once: an inductive list of NCB's own steps, and the inversion of `step` into the environment's turns and those. -/

namespace Sys2Proof.Machine

/-- NCB's own steps (R69, R131, R260, R292). -/
inductive NcbStep (s : State) : State → Prop
  /-- A deliverable source is served (R292). -/
  | interrupt (x : Source) (h : s.nextInterrupt = some x) : NcbStep s (takeInterrupt x s)
  /-- The next micro-step of the ring-buffer command in flight (R131). -/
  | micro (t : State) (hi : s.nextInterrupt = none) (h : mainMicroStep s = some t) : NcbStep s t
  /-- The `SetState` of a `BEACON_SERVICE` (R260). -/
  | service (b : Byte) (hi : s.nextInterrupt = none) (hm : s.mainRb = .none)
      (h : s.service = .apply b) : NcbStep s (serviceSetState b s)
  /-- Nothing to do. -/
  | wait (hi : s.nextInterrupt = none) (hm : s.mainRb = .none) (h : s.env.requests = []) : NcbStep s s
  /-- A host write (R40). -/
  | hostWrite (sp : HostSpace) (k : Nat) (v : Byte) (hi : s.nextInterrupt = none)
      (h : k < s.params.hostSize sp) :
      NcbStep s (hostWrite sp k v s.dropRequest)
  /-- A host read (R40, R65). -/
  | hostRead (hi : s.nextInterrupt = none) : NcbStep s s.dropRequest
  /-- A command word that decodes (R90). -/
  | command (i : Instr) (t : State) (hi : s.nextInterrupt = none) (hm : s.mainRb = .none)
      (hv : s.service = .idle ∨ s.service = .getting) (h : Effect s.dropRequest t)
      (he : exec i s.dropRequest = .next t) : NcbStep s t
  /-- A command word that does not (R112). -/
  | illegal (hi : s.nextInterrupt = none) (hm : s.mainRb = .none) :
      NcbStep s (illegalCommand s.dropRequest)

/-- Everything a step can do. -/
inductive StepCase (s : State) : State → Prop
  /-- An occurrence of a source arrives (R291). -/
  | arrival (x : Source) : StepCase s (s.dropTurn.arrive x)
  /-- Block reset is asserted (R330). -/
  | blockReset (h : s.env.turns.head? = some .blockReset) : StepCase s s.dropTurn.blockReset
  /-- NCB goes on, its turn written down. -/
  | turn (t : State) (h : NcbStep s.dropTurn t) : StepCase s t
  /-- NCB goes on, no turn written down. -/
  | free (t : State) (h : NcbStep s t) : StepCase s t

theorem mainMicroStep_none {s : State} : mainMicroStep s = none ↔ s.mainRb = .none := by
  unfold mainMicroStep
  split <;> simp_all

/-- What a step of NCB gives when its action is known. -/
def afterAction (a : Action) : Host.Outcome State Fault Refusal :=
  match a with
  | .done t => .next t
  | .stop f => .fault f
  | .run w t => runWord w t

theorem step_eq (s : State) : step s = afterAction (nextAction s) := rfl

/-- Everything a request of a free Main, or a host access, can do. -/
theorem beginRequest_cases {s t : State} (hi : s.nextInterrupt = none)
    (hfree : (∃ sp k v l, s.env.requests = .hostWrite sp k v :: l) ∨
      (∃ sp k l, s.env.requests = .hostRead sp k :: l) ∨
      (s.mainRb = .none ∧ (s.service = .idle ∨ s.service = .getting)))
    (h : afterAction (beginRequest s) = .next t) : NcbStep s t := by
  have free : (s.env.requests = [] ∨ ∃ w l, s.env.requests = .command w :: l) →
      s.mainRb = .none ∧ (s.service = .idle ∨ s.service = .getting) := by
    rintro (hr | ⟨w, l, hr⟩) <;> simpa [hr] using hfree
  unfold beginRequest at h
  split at h
  · rename_i hr
    cases h
    exact .wait hi (free (.inl hr)).1 hr
  · rename_i w rest hr
    obtain ⟨hm, hv⟩ := free (.inr ⟨w, rest, hr⟩)
    change runWord w s.dropRequest = .next t at h
    unfold runWord at h
    split at h
    · rename_i i hd
      obtain ⟨u, hu, he⟩ := exec_effect i s.dropRequest
      have hut : u = t := by rw [hu] at h; exact Host.Outcome.next.inj h
      subst hut
      exact .command i _ hi hm hv he hu
    · cases h
      exact .illegal hi hm
  · rename_i sp k v rest hr
    split at h
    · cases h
      exact .hostWrite sp k v hi ‹_›
    · cases h
  · split at h
    · cases h
      exact .hostRead hi
    · cases h

theorem mainAction_cases {s t : State} (hi : s.nextInterrupt = none)
    (h : afterAction (mainAction s) = .next t) : NcbStep s t := by
  unfold mainAction at h
  split at h
  · rename_i u hu
    cases h
    exact .micro _ hi hu
  · rename_i hn
    have hm := mainMicroStep_none.mp hn
    split at h
    · rename_i b hb
      cases h
      exact .service b hi hm hb
    · rename_i hv
      exact beginRequest_cases hi (.inr (.inr ⟨hm, .inl hv⟩)) h
    · rename_i hv
      exact beginRequest_cases hi (.inr (.inr ⟨hm, .inr hv⟩)) h

theorem hostAction_cases {s t : State} (hi : s.nextInterrupt = none)
    (h : afterAction (hostAction s) = .next t) : NcbStep s t := by
  unfold hostAction at h
  split at h
  · rename_i hr
    exact beginRequest_cases hi (.inl ⟨_, _, _, _, hr⟩) h
  · rename_i hr
    exact beginRequest_cases hi (.inr (.inl ⟨_, _, _, hr⟩)) h
  · exact mainAction_cases hi h
  · exact mainAction_cases hi h

theorem afterInterrupts_cases {main : State → Action} {s t : State}
    (hmain : s.nextInterrupt = none → afterAction (main s) = .next t → NcbStep s t)
    (h : afterAction (afterInterrupts main s) = .next t) : NcbStep s t := by
  unfold afterInterrupts at h
  split at h
  · rename_i x hi
    cases h
    exact .interrupt x hi
  · exact hmain ‹_› h

theorem ncbAction_cases {s t : State} (h : afterAction (ncbAction s) = .next t) : NcbStep s t :=
  afterInterrupts_cases mainAction_cases h

/-- Everything a step can do. -/
theorem step_cases {s t : State} (h : step s = .next t) : StepCase s t := by
  rw [step_eq] at h
  unfold nextAction at h
  split at h
  · cases h
    exact .arrival _
  · rename_i hr
    cases h
    exact .blockReset (by rw [hr]; rfl)
  · exact .turn t (ncbAction_cases h)
  · exact .turn t (afterInterrupts_cases hostAction_cases h)
  · exact .free t (ncbAction_cases h)

/-- A property kept by each of NCB's steps, by arrivals, by block reset and by taking a turn from the
list is kept by every step. -/
theorem step_keeps {P : State → Prop} (hturn : ∀ s, P s → P s.dropTurn)
    (harrive : ∀ s x, P s → P (s.arrive x)) (hreset : ∀ s, P s → P s.blockReset)
    (hncb : ∀ s t, P s → NcbStep s t → P t) {s t : State} (hp : P s) (h : step s = .next t) : P t := by
  cases step_cases h with
  | arrival x => exact harrive _ x (hturn s hp)
  | blockReset _ => exact hreset _ (hturn s hp)
  | turn _ h => exact hncb _ _ (hturn s hp) h
  | free _ h => exact hncb _ _ hp h

end Sys2Proof.Machine
end

