-- ==== Sys2Proof/Laws/Handlers.lean ====
section
/-! SUPPORT. What a handler can do, said once: the operations of a handler on the radio, the pin, the timer and the orchestrator's registers are quiet (rings and generators stay), and around them a handler gets at most one byte from `rb[0]`, puts at most one to `rb[1]` and steps at most one generator. -/

namespace Sys2Proof.Machine

/-- What the operations of a handler do apart from the rings and the generators. -/
structure Quiet (s t : State) : Prop where
  frame : t = { s with
    radioState := t.radioState
    spiFault := t.spiFault
    beacon := t.beacon
    trace := t.trace
    env := { s.env with answers := t.env.answers } }
  extends_trace : s.trace <+: t.trace
  sticky : s.spiFault = true → t.spiFault = true
  silent : s.spiFault = true → t.spiEvents = s.spiEvents
  radio : t.radioState = s.radioState ∨ ∃ g : Target, t.radioState = g.state
  mode : (t.beacon.mode = s.beacon.mode ∧ t.beacon.ie = s.beacon.ie) ∨
    (t.beacon.mode = .off ∧ t.beacon.ie = s.beacon.ie &&& 0b0010#4)
  ccrA : t.beacon.ccrA = s.beacon.ccrA ∨ t.beacon.ccrA < 2 ^ s.params.timerW
  ccrB : t.beacon.ccrB = s.beacon.ccrB ∨ t.beacon.ccrB < 2 ^ s.params.timerW
  tone : s.beacon.toneCount.toNat < s.params.toneDiv → t.beacon.toneCount.toNat < s.params.toneDiv
  flags : ∃ f : Byte, t.beacon.flags = s.beacon.flags ||| f ∧ f &&& 0xE0#8 = 0x00#8

theorem Quiet.refl (s : State) : Quiet s s where
  frame := rfl
  extends_trace := List.prefix_refl _
  sticky := id
  silent := fun _ => rfl
  radio := .inl rfl
  mode := .inl ⟨rfl, rfl⟩
  ccrA := .inl rfl
  ccrB := .inl rfl
  tone := id
  flags := ⟨0#8, by simp, by simp⟩

theorem Quiet.params {s t : State} (h : Quiet s t) : t.params = s.params := by rw [h.frame]

theorem Quiet.trans {s t u : State} (h : Quiet s t) (k : Quiet t u) : Quiet s u where
  frame := by
    have hk := k.frame
    rw [h.frame] at hk
    exact hk
  extends_trace := h.extends_trace.trans k.extends_trace
  sticky := k.sticky ∘ h.sticky
  silent := fun hs => (k.silent (h.sticky hs)).trans (h.silent hs)
  radio := by
    rcases k.radio with e | e
    · rw [e]; exact h.radio
    · exact .inr e
  mode := by
    rcases k.mode with ⟨e1, e2⟩ | ⟨e1, e2⟩
    · rw [e1, e2]; exact h.mode
    · refine .inr ⟨e1, ?_⟩
      rcases h.mode with ⟨_, e3⟩ | ⟨_, e3⟩
      · rw [e2, e3]
      · rw [e2, e3, BitVec.and_assoc, BitVec.and_self]
  ccrA := by
    rcases k.ccrA with e | e
    · rw [e]; exact h.ccrA
    · rw [h.params] at e; exact .inr e
  ccrB := by
    rcases k.ccrB with e | e
    · rw [e]; exact h.ccrB
    · rw [h.params] at e; exact .inr e
  tone := fun hs => by
    have := k.tone
    rw [h.params] at this
    exact this (h.tone hs)
  flags := by
    obtain ⟨f, e1, e2⟩ := h.flags
    obtain ⟨g, e3, e4⟩ := k.flags
    refine ⟨f ||| g, by rw [e3, e1, BitVec.or_assoc], ?_⟩
    rw [BitVec.and_comm, BitVec.and_or_distrib_left, BitVec.and_comm, e2, BitVec.and_comm, e4]
    rfl

theorem BusOnly.quiet {s t : State} (h : BusOnly s t) : Quiet s t := by
  have e : t.beacon = s.beacon := by rw [h.frame]
  have r : t.radioState = s.radioState := by rw [h.frame]
  have f := h.frame
  exact {
    frame := by rw [e, r]; exact f
    extends_trace := h.extends_trace
    sticky := h.sticky
    silent := h.silent
    radio := .inl r
    mode := .inl (by rw [e]; exact ⟨rfl, rfl⟩)
    ccrA := .inl (by rw [e])
    ccrB := .inl (by rw [e])
    tone := by rw [e]; exact id
    flags := ⟨0#8, by rw [e]; simp, by simp⟩ }

/-- A write of the orchestrator's registers and an event that is no transaction. -/
theorem quiet_of_beacon {s t : State} (b : Beacon) (es : List TraceEvent)
    (ht : t = { s with beacon := b, trace := s.trace ++ es }) (hes : ∀ e ∈ es, e.isSpi = false)
    (mode : (b.mode = s.beacon.mode ∧ b.ie = s.beacon.ie) ∨
      (b.mode = .off ∧ b.ie = s.beacon.ie &&& 0b0010#4))
    (ccrA : b.ccrA = s.beacon.ccrA ∨ b.ccrA < 2 ^ s.params.timerW)
    (ccrB : b.ccrB = s.beacon.ccrB ∨ b.ccrB < 2 ^ s.params.timerW)
    (tone : s.beacon.toneCount.toNat < s.params.toneDiv → b.toneCount.toNat < s.params.toneDiv)
    (flags : ∃ f : Byte, b.flags = s.beacon.flags ||| f ∧ f &&& 0xE0#8 = 0x00#8) : Quiet s t := by
  subst ht
  exact {
    frame := rfl
    extends_trace := ⟨es, rfl⟩
    sticky := id
    silent := fun _ => by
      have h0 : es.filter TraceEvent.isSpi = [] := List.filter_eq_nil_iff.mpr fun e he => by simp [hes e he]
      simp only [State.spiEvents, List.filter_append, h0, List.append_nil]
    radio := .inl rfl
    mode := mode
    ccrA := ccrA
    ccrB := ccrB
    tone := tone
    flags := flags }

theorem driveData_quiet (b : Bool) (s : State) : Quiet s (s.driveData b) :=
  quiet_of_beacon { s.beacon with dataPin := b } [.pin .data b] rfl (by simp [TraceEvent.isSpi])
    (.inl ⟨rfl, rfl⟩) (.inl rfl) (.inl rfl) id ⟨0#8, by simp, by simp⟩

theorem raiseFlag_quiet {f : Byte} (hf : f &&& 0xE0#8 = 0x00#8) (s : State) : Quiet s (s.raiseFlag f) :=
  quiet_of_beacon (s.beacon.raise f) [] (by simp [State.raiseFlag, State.setBeacon]) (by simp)
    (.inl ⟨rfl, rfl⟩) (.inl rfl) (.inl rfl) id ⟨f, rfl, hf⟩

theorem enterHandler_quiet (x : Source) (s : State) : Quiet s (s.enterHandler x) :=
  quiet_of_beacon (s.beacon.acknowledge x) [.irq x] rfl (by simp [TraceEvent.isSpi]) (.inl ⟨rfl, rfl⟩)
    (.inl rfl) (.inl rfl) id ⟨0#8, by simp [Beacon.acknowledge], by simp⟩

theorem reprogramA_quiet (s : State) : Quiet s (reprogramA s) :=
  quiet_of_beacon { s.beacon with ccrA := addW s.params.timerW s.beacon.ccrA s.params.tickPeriod }
    [.ccr .a (addW s.params.timerW s.beacon.ccrA s.params.tickPeriod)] rfl (by simp [TraceEvent.isSpi])
    (.inl ⟨rfl, rfl⟩) (.inr (Nat.mod_lt _ (Nat.two_pow_pos _))) (.inl rfl) id ⟨0#8, by simp, by simp⟩

/-- The mask of the stop action is one `and`, in any order of its three clears (R256). -/
theorem stop_mask (r : BitVec 4) :
    setSource (setSource (setSource r .cmpA false) .txclk false) .nirq false = r &&& 0b0010#4 := by
  revert r; decide

theorem maskAndSilence_eq (s : State) :
    maskAndSilence s = { s with
      beacon := { s.beacon with mode := .off, dataPin := false, ie := s.beacon.ie &&& 0b0010#4 }
      trace := s.trace ++ [.pin .data false] } := by
  simp only [maskAndSilence, stop_mask, State.setBeacon, State.driveData, State.emit]

theorem maskAndSilence_quiet (s : State) : Quiet s (maskAndSilence s) := by
  refine quiet_of_beacon _ _ (maskAndSilence_eq s) (by simp [TraceEvent.isSpi]) (.inr ⟨rfl, rfl⟩)
    (.inl rfl) (.inl rfl) id ⟨0#8, by simp, by simp⟩

theorem enterTarget_quiet (t : Target) (s : State) : Quiet s (enterTarget t s).2 := by
  obtain ⟨u, hu, ⟨e, _⟩ | e⟩ := enterTarget_cases t s <;> rw [e]
  · exact hu.quiet
  · have hq := hu.quiet
    have hf := hu.frame
    exact {
      frame := by
        have : u.beacon = s.beacon := by rw [hf]
        simp only [State.setRadioState_radioState, State.setRadioState_spiFault,
          State.setRadioState_beacon, State.setRadioState_trace, State.setRadioState_env]
        rw [this]
        exact congrArg (·.setRadioState t.state) hf
      extends_trace := hq.extends_trace
      sticky := hq.sticky
      silent := hq.silent
      radio := .inr ⟨t, rfl⟩
      mode := hq.mode
      ccrA := hq.ccrA
      ccrB := hq.ccrB
      tone := hq.tone
      flags := hq.flags }

theorem stopAction_quiet (s : State) : Quiet s (stopAction s).2 :=
  (enterTarget_quiet .ready s).trans (maskAndSilence_quiet _)

theorem handlerStop_quiet (s : State) : Quiet s (handlerStop s) := by
  unfold handlerStop
  dsimp only
  split
  · exact stopAction_quiet s
  · exact (stopAction_quiet s).trans (raiseFlag_quiet (by decide) _)

/-! ## Rings -/

/-- Everything a handler's get can do (R124, R132). -/
theorem ringGet_cases (i : RingId) (s : State) :
    (s.isEmpty i = true ∧ ringGet i s = none) ∨
    (s.isEmpty i = false ∧ ringGet i s = some (s.ringByte i (s.ring i).tail,
      s.setRing i { s.ring i with tail := addW s.params.rbW (s.ring i).tail 1 })) := by
  unfold ringGet
  cases h : s.isEmpty i
  · exact .inr ⟨rfl, rfl⟩
  · exact .inl ⟨rfl, rfl⟩

/-- Everything a handler's put can do (R122, R132). -/
theorem ringPut_cases (i : RingId) (b : Byte) (s : State) :
    (s.isFull i = true ∧ ringPut i b s = none) ∨
    (s.isFull i = false ∧ ringPut i b s = some (s.setRing i
      { buf := Memory.write (s.ring i).buf (slot (s.params.rbCap i) (s.ring i).head) b
        head := addW s.params.rbW (s.ring i).head 1
        tail := (s.ring i).tail })) := by
  unfold ringPut
  cases h : s.isFull i
  · refine .inr ⟨rfl, ?_⟩
    cases i <;> rfl
  · exact .inl ⟨rfl, rfl⟩

/-- An instance after a put of `b` (R122). -/
def Ring.pushed (r : Ring) (p : Params) (i : RingId) (b : Byte) : Ring where
  buf := Memory.write r.buf (slot (p.rbCap i) r.head) b
  head := addW p.rbW r.head 1
  tail := r.tail

/-- An instance after a get (R124). -/
def Ring.popped (r : Ring) (p : Params) : Ring where
  buf := r.buf
  head := r.head
  tail := addW p.rbW r.tail 1

/-- Everything the key sink can do (R298): quiet operations, after at most one put into `rb[1]`. -/
theorem keySink_cases (b : Bool) (s : State) :
    Quiet s (keySink b s) ∨
    (s.isFull .rb1 = false ∧ ∃ v, Quiet { s with rb1 := s.rb1.pushed s.params .rb1 v } (keySink b s)) := by
  unfold keySink
  split
  · exact .inl (driveData_quiet b s)
  · split
    · unfold queueKey
      split
      · exact .inl (Quiet.refl s)
      · rcases ringPut_cases .rb1 (requestByte b) s with ⟨_, e⟩ | ⟨hf, e⟩ <;> rw [e]
        · exact .inl (raiseFlag_quiet (by decide) s)
        · refine .inr ⟨hf, requestByte b, ?_⟩
          exact quiet_of_beacon { s.beacon with lastKey := b } [] (by
            simp [State.setRing, State.setBeacon, Ring.pushed, State.ring]) (by simp)
            (.inl ⟨rfl, rfl⟩) (.inl rfl) (.inl rfl) id ⟨0#8, by simp, by simp⟩
    · exact .inl (Quiet.refl s)

/-- Everything a handler can do: at most one get from `rb[0]`, one put into `rb[1]` and one step of a
generator, and quiet operations (R296 to R302). -/
inductive HandlerStep (s t : State) : Prop
  | mk (r0 r1 : Ring) (m : Morse) (p : Pn)
    (h0 : r0 = s.rb0 ∨ (s.isEmpty .rb0 = false ∧ r0 = s.rb0.popped s.params))
    (h1 : r1 = s.rb1 ∨ (s.isFull .rb1 = false ∧ ∃ v, r1 = s.rb1.pushed s.params .rb1 v))
    (hm : m = s.morse ∨ ∃ c, m = (Sys2Proof.Machine.morseStep s.params c s.morse).2)
    (hp : p = s.pn ∨ p = (Sys2Proof.Machine.pnStep s.params s.pn).2)
    (q : Quiet { s with rb0 := r0, rb1 := r1, morse := m, pn := p } t)

theorem Quiet.handlerStep {s t : State} (q : Quiet s t) : HandlerStep s t :=
  .mk s.rb0 s.rb1 s.morse s.pn (.inl rfl) (.inl rfl) (.inl rfl) (.inl rfl) q

/-- A key value delivered and the compare register reprogrammed, after quiet operations. -/
theorem keySink_reprogram {s s1 : State} {r0 : Ring} {m : Morse} {p : Pn} (b : Bool)
    (h0 : r0 = s.rb0 ∨ (s.isEmpty .rb0 = false ∧ r0 = s.rb0.popped s.params))
    (hm : m = s.morse ∨ ∃ c, m = (Sys2Proof.Machine.morseStep s.params c s.morse).2)
    (hp : p = s.pn ∨ p = (Sys2Proof.Machine.pnStep s.params s.pn).2)
    (q : Quiet { s with rb0 := r0, morse := m, pn := p } s1) :
    HandlerStep s (reprogramA (keySink b s1)) := by
  have e1 : s1.rb1 = s.rb1 := by rw [q.frame]
  have e2 : s1.params = s.params := by rw [q.frame]
  rcases keySink_cases b s1 with k | ⟨hf, v, k⟩
  · exact .mk r0 s.rb1 m p h0 (.inl rfl) hm hp ((q.trans k).trans (reprogramA_quiet _))
  · have hf' : s.isFull .rb1 = false := by
      simpa only [State.isFull, State.occupied, State.ring, e1, e2] using hf
    refine .mk r0 (s1.rb1.pushed s1.params .rb1 v) m p h0 (.inr ⟨hf', v, by rw [e1, e2]⟩) hm hp
      (Quiet.trans ?_ (k.trans (reprogramA_quiet _)))
    generalize s1.rb1.pushed s1.params .rb1 v = r1
    have hq := q.frame
    exact {
      frame := congrArg (fun u : State => { u with rb1 := r1 }) hq
      extends_trace := q.extends_trace
      sticky := q.sticky
      silent := q.silent
      radio := q.radio
      mode := q.mode
      ccrA := q.ccrA
      ccrB := q.ccrB
      tone := q.tone
      flags := q.flags }

theorem tickMorse_step (s : State) : HandlerStep s (tickMorse s) := by
  unfold tickMorse
  split
  · generalize hc : s.readByte .msg s.morse.messageCursor.toNat = c
    have e : s.morseStep.2 = { s with morse := (Sys2Proof.Machine.morseStep s.params c s.morse).2 } := by
      rw [← hc]; rfl
    have hm : (Sys2Proof.Machine.morseStep s.params c s.morse).2 = s.morse ∨
        ∃ d, (Sys2Proof.Machine.morseStep s.params c s.morse).2 =
          (Sys2Proof.Machine.morseStep s.params d s.morse).2 := .inr ⟨c, rfl⟩
    have hq := Quiet.refl s.morseStep.2
    nth_rw 1 [e] at hq
    split
    · rename_i s1 h1
      rw [h1] at hq
      exact .mk s.rb0 s.rb1 _ s.pn (.inl rfl) (.inl rfl) hm (.inl rfl) (hq.trans (handlerStop_quiet s1))
    · rename_i s1 h1
      rw [h1] at hq
      exact keySink_reprogram true (.inl rfl) hm (.inl rfl) hq
    · rename_i s1 h1
      rw [h1] at hq
      exact keySink_reprogram false (.inl rfl) hm (.inl rfl) hq
    · rename_i d s1 h1
      rw [h1] at hq
      exact keySink_reprogram false (.inl rfl) hm (.inl rfl) (hq.trans (raiseFlag_quiet (by decide) s1))
  · exact (handlerStop_quiet s).handlerStep

theorem tickPn_step (s : State) : HandlerStep s (tickPn s) := by
  unfold tickPn
  split
  · exact (handlerStop_quiet s).handlerStep
  · exact keySink_reprogram _ (.inl rfl) (.inl rfl) (.inr rfl) (Quiet.refl s.pnStep.2)

theorem tickQueue_step (s : State) : HandlerStep s (tickQueue s) := by
  unfold tickQueue
  rcases ringGet_cases .rb0 s with ⟨_, e⟩ | ⟨he, e⟩ <;> rw [e]
  · exact keySink_reprogram false (.inl rfl) (.inl rfl) (.inl rfl) (raiseFlag_quiet (by decide) s)
  · have h0 : s.rb0.popped s.params = s.rb0 ∨
        (s.isEmpty .rb0 = false ∧ s.rb0.popped s.params = s.rb0.popped s.params) := .inr ⟨he, rfl⟩
    have hq := Quiet.refl
      (s.setRing .rb0 { s.ring .rb0 with tail := addW s.params.rbW (s.ring .rb0).tail 1 })
    simp only
    split
    · exact keySink_reprogram false h0 (.inl rfl) (.inl rfl) hq
    · exact keySink_reprogram true h0 (.inl rfl) (.inl rfl) hq
    · exact .mk _ s.rb1 s.morse s.pn h0 (.inl rfl) (.inl rfl) (.inl rfl) (hq.trans (handlerStop_quiet _))
    · exact keySink_reprogram false h0 (.inl rfl) (.inl rfl) (hq.trans (raiseFlag_quiet (by decide) _))

theorem handlerCmpB_quiet (s : State) : Quiet s (handlerCmpB s) :=
  quiet_of_beacon
    { s.beacon with
      wallclock := s.beacon.wallclock + 1#32
      ccrB := addW s.params.timerW s.beacon.ccrB s.params.unitPeriod }
    [.ccr .b (addW s.params.timerW s.beacon.ccrB s.params.unitPeriod)] rfl (by simp [TraceEvent.isSpi])
    (.inl ⟨rfl, rfl⟩) (.inl rfl) (.inr (Nat.mod_lt _ (Nat.two_pow_pos _))) id ⟨0#8, by simp, by simp⟩

theorem handlerNirq_quiet (s : State) : Quiet s (handlerNirq s) := by
  have hq := (busRun_busOnly
    [.regRead s.params.radio.regIntStatus1, .regRead s.params.radio.regIntStatus2] s).quiet
  unfold handlerNirq
  split
  · rename_i s1 _ t e
    rw [e] at hq
    split
    · dsimp only
      split
      · exact hq.trans (enterTarget_quiet .ready t)
      · exact (hq.trans (enterTarget_quiet .ready t)).trans (raiseFlag_quiet (by decide) _)
    · exact hq
  · rename_i t _ e
    rw [e] at hq
    exact hq.trans (raiseFlag_quiet (by decide) _)

theorem handlerTxclk_quiet (s : State) : Quiet s (handlerTxclk s) := by
  unfold handlerTxclk
  split
  · dsimp only
    split
    · exact quiet_of_beacon { s.beacon with toneCount := 0#16, dataPin := !s.beacon.dataPin }
        [.pin .data (!s.beacon.dataPin)] rfl (by simp [TraceEvent.isSpi]) (.inl ⟨rfl, rfl⟩) (.inl rfl)
        (.inl rfl) (fun h => by simpa using Nat.lt_of_le_of_lt (Nat.zero_le _) h) ⟨0#8, by simp, by simp⟩
    · rename_i h
      refine quiet_of_beacon { s.beacon with toneCount := s.beacon.toneCount + 1#16 } []
        (by simp [State.setBeacon]) (by simp) (.inl ⟨rfl, rfl⟩) (.inl rfl) (.inl rfl) (fun h2 => ?_)
        ⟨0#8, by simp, by simp⟩
      have hle : (s.beacon.toneCount + 1#16).toNat ≤ s.beacon.toneCount.toNat + 1 := by
        rw [BitVec.toNat_add]
        exact Nat.mod_le _ _
      change (s.beacon.toneCount + 1#16).toNat < _
      omega
  · exact Quiet.refl s

/-- Everything a handler body can do. -/
theorem handlerBody_step (x : Source) (s : State) : HandlerStep s (handlerBody x s) := by
  cases x with
  | cmpA =>
    show HandlerStep s (handlerCmpA s)
    unfold handlerCmpA
    split
    · exact tickMorse_step s
    · exact tickMorse_step s
    · exact tickPn_step s
    · exact tickPn_step s
    · exact tickQueue_step s
    all_goals exact (Quiet.refl s).handlerStep
  | cmpB => exact (handlerCmpB_quiet s).handlerStep
  | nirq => exact (handlerNirq_quiet s).handlerStep
  | txclk => exact (handlerTxclk_quiet s).handlerStep

/-- Everything taking an interrupt can do. -/
theorem takeInterrupt_step (x : Source) (s : State) : HandlerStep s (takeInterrupt x s) := by
  have he := enterHandler_quiet x s
  obtain ⟨r0, r1, m, p, h0, h1, hm, hp, q⟩ := handlerBody_step x (s.enterHandler x)
  refine .mk r0 r1 m p h0 h1 hm hp (Quiet.trans ?_ q)
  exact {
    frame := rfl
    extends_trace := he.extends_trace
    sticky := he.sticky
    silent := he.silent
    radio := he.radio
    mode := he.mode
    ccrA := he.ccrA
    ccrB := he.ccrB
    tone := he.tone
    flags := he.flags }

end Sys2Proof.Machine
end

