-- ==== Sys2Proof/Laws/Memory.lean ====
section
/-! SUPPORT. The laws of byte memories: read after write, canonical form and index bounds kept by every operation. -/

namespace Sys2Proof.Machine

@[simp] theorem Memory.lookup_nil (k : Nat) : Memory.lookup [] k = none := rfl

theorem Memory.lookup_cons (a : Nat) (v : Byte) (m : Memory) (k : Nat) :
    Memory.lookup ((a, v) :: m) k = if a = k then some v else Memory.lookup m k := rfl

theorem Memory.lookup_write (m : Memory) (k j : Nat) (v : Byte) :
    Memory.lookup (Memory.write m k v) j = if j = k then some v else Memory.lookup m j := by
  induction m with
  | nil => simp [Memory.write, Memory.lookup, eq_comm]
  | cons c m ih =>
    obtain ⟨a, w⟩ := c
    by_cases h1 : k < a
    · simp only [Memory.write, h1, if_true, Memory.lookup_cons]
      grind
    · by_cases h2 : k = a
      · subst h2
        simp only [Memory.write, lt_irrefl, if_false, if_true, Memory.lookup_cons]
        grind
      · simp only [Memory.write, h1, h2, if_false, Memory.lookup_cons, ih]
        grind

@[simp] theorem Memory.lookup_write_same (m : Memory) (k : Nat) (v : Byte) :
    Memory.lookup (Memory.write m k v) k = some v := by
  simp [Memory.lookup_write]

theorem Memory.lookup_write_other (m : Memory) {k j : Nat} (v : Byte) (h : j ≠ k) :
    Memory.lookup (Memory.write m k v) j = Memory.lookup m j := by
  simp [Memory.lookup_write, h]

/-- Every entry after a write is the written one or was there before. -/
theorem Memory.mem_write {m : Memory} {k : Nat} {v : Byte} {c : Host.Cell}
    (h : c ∈ Memory.write m k v) : c = (k, v) ∨ c ∈ m := by
  induction m with
  | nil => simpa [Memory.write] using h
  | cons d m ih =>
    obtain ⟨a, w⟩ := d
    simp only [Memory.write] at h
    split at h
    · simpa using h
    · split at h
      · rcases List.mem_cons.mp h with h | h
        · exact .inl h
        · exact .inr (List.mem_cons_of_mem _ h)
      · rcases List.mem_cons.mp h with h | h
        · exact .inr (h ▸ List.mem_cons_self)
        · exact (ih h).imp_right (List.mem_cons_of_mem _)

/-- A write keeps the canonical form. -/
theorem Memory.write_wf {m : Memory} (h : Memory.wf m) (k : Nat) (v : Byte) :
    Memory.wf (Memory.write m k v) := by
  induction m with
  | nil => simp [Memory.wf, Memory.write]
  | cons d m ih =>
    obtain ⟨a, w⟩ := d
    have h' := List.pairwise_cons.mp h
    simp only [Memory.write]
    split
    · rename_i hlt
      refine List.pairwise_cons.mpr ⟨fun c hc => ?_, h⟩
      rcases List.mem_cons.mp hc with rfl | hc
      · exact hlt
      · exact lt_trans hlt (h'.1 c hc)
    · split
      · rename_i heq
        exact List.pairwise_cons.mpr ⟨fun c hc => heq ▸ h'.1 c hc, h'.2⟩
      · refine List.pairwise_cons.mpr ⟨fun c hc => ?_, ih h'.2⟩
        rcases Memory.mem_write hc with rfl | hc
        · simp only
          omega
        · exact h'.1 c hc

/-- A write at an index below a bound keeps every index below it. -/
theorem Memory.write_inRange {m : Memory} {b k : Nat} (h : ∀ c ∈ m, c.1 < b) (hk : k < b) (v : Byte) :
    ∀ c ∈ Memory.write m k v, c.1 < b := by
  intro c hc
  rcases Memory.mem_write hc with rfl | hc
  · exact hk
  · exact h c hc

/-- Consecutive writes keep the canonical form. -/
theorem Memory.writeAll_wf {m : Memory} (h : Memory.wf m) (k : Nat) (vs : List Byte) :
    Memory.wf (Memory.writeAll m k vs) := by
  induction vs generalizing m k with
  | nil => exact h
  | cons v vs ih => exact ih (Memory.write_wf h k v) (k + 1)

/-- Consecutive writes below a bound keep every index below it. -/
theorem Memory.writeAll_inRange {m : Memory} {b k : Nat} {vs : List Byte} (h : ∀ c ∈ m, c.1 < b)
    (hk : k + vs.length ≤ b) : ∀ c ∈ Memory.writeAll m k vs, c.1 < b := by
  induction vs generalizing m k with
  | nil => exact h
  | cons v vs ih =>
    simp only [List.length_cons] at hk
    exact ih (Memory.write_inRange h (by omega) v) (by omega)

/-- What consecutive writes leave at an index: the written byte inside the range, the old one outside. -/
theorem Memory.lookup_writeAll (m : Memory) (k j : Nat) (vs : List Byte) :
    Memory.lookup (Memory.writeAll m k vs) j =
      if k ≤ j ∧ j < k + vs.length then vs[j - k]? else Memory.lookup m j := by
  induction vs generalizing m k with
  | nil => simp [Memory.writeAll]
  | cons v vs ih =>
    simp only [Memory.writeAll, ih, Memory.lookup_write, List.length_cons]
    by_cases h1 : j = k
    · subst h1
      simp
    · by_cases h2 : k + 1 ≤ j ∧ j < k + 1 + vs.length
      · have h3 : k ≤ j ∧ j < k + (vs.length + 1) := by omega
        have h4 : j - k = (j - (k + 1)) + 1 := by omega
        rw [if_pos h2, if_pos h3, h4, List.getElem?_cons_succ]
      · have h3 : ¬(k ≤ j ∧ j < k + (vs.length + 1)) := by omega
        rw [if_neg h2, if_neg h3, if_neg h1]

end Sys2Proof.Machine
end

