-- ==== Sys2Proof/Laws/Orchestrator.lean ====
section
/-! SUPPORT. What `BEACON_START` does after its checks, said once (R252). -/

namespace Sys2Proof.Machine

/-- A bit written in an enable register is read back, and no other bit moves (R36). -/
theorem hasSource_setSource (r : BitVec 4) (x y : Source) (b : Bool) :
    hasSource (setSource r x b) y = if y = x then b else hasSource r y := by
  revert r
  cases x <;> cases y <;> cases b <;> decide

/-- What the registers' part of `BEACON_START` does (R252). -/
structure Started (m : Mode) (u v : State) : Prop where
  frame : v = { u with
    beacon := v.beacon
    trace := v.trace
    env := { u.env with timerReads := v.env.timerReads } }
  extends_trace : u.trace <+: v.trace
  silent : v.spiEvents = u.spiEvents
  mode : v.beacon.mode = m
  cmpA : hasSource v.beacon.ie .cmpA = (hasSource u.beacon.ie .cmpA || m.ticksOnA)
  cmpB : hasSource v.beacon.ie .cmpB = true
  nirq : hasSource v.beacon.ie .nirq = true
  txclk : hasSource v.beacon.ie .txclk = (hasSource u.beacon.ie .txclk || decide (m = .tone))
  ccrA : v.beacon.ccrA = u.beacon.ccrA ∨ v.beacon.ccrA < 2 ^ u.params.timerW
  ccrB : v.beacon.ccrB = u.beacon.ccrB ∨ v.beacon.ccrB < 2 ^ u.params.timerW
  tone : v.beacon.toneCount = 0#16
  flags : v.beacon.flags = u.beacon.flags

/-- Key and tone state cleared, the pin low, three pending bits dropped (R252). -/
theorem startClear_eq (s : State) : startClear s = { s with
    beacon := { s.beacon with
      lastKey := false, toneCount := 0#16, dataPin := false, ip := s.beacon.ip &&& 0b0010#4 }
    trace := s.trace ++ [.pin .data false] } := by
  simp only [startClear, State.driveData, State.setBeacon, State.emit, stop_mask]

/-- The registers' part of `BEACON_START` (R252). -/
theorem started (m : Mode) (u : State) :
    Started m u (startEnable m (startChannelA m (startChannelB (startClear u)))) := by
  rw [startClear_eq]
  by_cases hb : hasSource u.beacon.ie .cmpB = true <;> cases m <;> constructor <;>
    simp [Mode.ticksOnA, startEnable, startChannelA, startChannelB, State.writeCcrA, State.writeCcrB,
      State.dropTimerRead, State.setBeacon, State.setEnv, State.emit, hb, hasSource_setSource,
      State.spiEvents, TraceEvent.isSpi, addW, Nat.mod_lt]

/-- Everything `BEACON_START` can do after its checks (R252): the transition it needs fails on the bus,
or the radio is set and the registers' part runs. -/
theorem startMode_cases (m : Mode) (s : State) :
    (∃ u, BusOnly s u ∧ u.spiFault = true ∧ startMode m s = (.transportError, u)) ∨
    (∃ u, Quiet s u ∧ u.beacon = s.beacon ∧ (m.setsXmitDirect = true ∧ u = (enterTarget .xmitDirect s).2 ∨
        m.setsXmitDirect = false ∧ u = s) ∧
      startMode m s =
        (⟨.ok, m.code.setWidth 16⟩, startEnable m (startChannelA m (startChannelB (startClear u))))) := by
  unfold startMode
  by_cases hm : m.setsXmitDirect = true
  · obtain ⟨u, hu, ⟨e, hf⟩ | e⟩ := enterTarget_cases .xmitDirect s
    · exact .inl ⟨u, hu, hf, by simp [hm, e, Reply.transportError]⟩
    · refine .inr ⟨(enterTarget .xmitDirect s).2, enterTarget_quiet .xmitDirect s, ?_, .inl ⟨hm, rfl⟩, ?_⟩
      · rw [e]
        have := hu.frame
        simp only [State.setRadioState_beacon]
        rw [this]
      · simp [hm, e]
  · exact .inr ⟨s, Quiet.refl s, rfl, .inr ⟨by simpa using hm, rfl⟩, by simp [hm]⟩

end Sys2Proof.Machine
end

