-- ==== Sys2Proof/Laws/PerInstr.lean ====
section
/-! SUPPORT. Facts about every command as syntax, one lemma per command. -/

namespace Sys2Proof.Laws.EncodingRow

/-- The word of a command matches its own row of the opcode table and no other (R94, R112). -/
def Statement (i : Instr) : Prop := (rowsOf (encode i)).map (·.name) = [mnemonic i]

/-- The rows a word with known fields matches. -/
theorem rowsOf_of_fields {w : Word} {op hi lo : Byte} (ho : opField w = op) (hh : hiField w = hi)
    (hl : loField w = lo) :
    rowsOf w = opcodeTable.filter fun r => decide (op &&& opField r.mask = opField r.pattern ∧
      hi &&& hiField r.mask = hiField r.pattern ∧ lo &&& loField r.mask = loField r.pattern) := by
  unfold rowsOf
  apply List.filter_congr
  intro r _
  rw [Bool.eq_iff_iff, accepts_iff, ho, hh, hl, decide_eq_true_iff]

/-- The rows of a word written from its opcode and argument bytes. -/
theorem rowsOf_word (op hi lo : Byte) :
    rowsOf (word op hi lo) = opcodeTable.filter fun r =>
      decide (op &&& opField r.mask = opField r.pattern ∧
        hi &&& hiField r.mask = hiField r.pattern ∧ lo &&& loField r.mask = loField r.pattern) :=
  rowsOf_of_fields (opField_word ..) (hiField_word ..) (loField_word ..)

/-- The rows of a word written from its opcode and its argument. -/
theorem rowsOf_append (op : Byte) (arg : Half) :
    rowsOf (op ++ arg : Word) = opcodeTable.filter fun r =>
      decide (op &&& opField r.mask = opField r.pattern ∧
        arg.extractLsb' 8 8 &&& hiField r.mask = hiField r.pattern ∧
        arg.extractLsb' 0 8 &&& loField r.mask = loField r.pattern) :=
  rowsOf_of_fields (opField_append ..) (hiField_append ..) (loField_append ..)

/-- Bit 15 of the argument is clear in formats A and AV (R93). -/
theorem addrByte_and (a : RegAddr) : addrByte a &&& 128#8 = 0#8 := by
  revert a
  decide

theorem rbPut (k b : Byte) : Statement (.rbPut k b) := by
  simp [Statement, encode, rowsOf_word, opcodeTable, opField, hiField, loField, mnemonic]

theorem rbGet (k : Byte) : Statement (.rbGet k) := by
  simp [Statement, encode, rowsOf_word, opcodeTable, opField, hiField, loField, mnemonic]

theorem rbLen (k : Byte) : Statement (.rbLen k) := by
  simp [Statement, encode, rowsOf_word, opcodeTable, opField, hiField, loField, mnemonic]

theorem rbPeek (k n : Byte) : Statement (.rbPeek k n) := by
  simp [Statement, encode, rowsOf_word, opcodeTable, opField, hiField, loField, mnemonic]

theorem rbIsFull (k : Byte) : Statement (.rbIsFull k) := by
  simp [Statement, encode, rowsOf_word, opcodeTable, opField, hiField, loField, mnemonic]

theorem rbIsEmpty (k : Byte) : Statement (.rbIsEmpty k) := by
  simp [Statement, encode, rowsOf_word, opcodeTable, opField, hiField, loField, mnemonic]

theorem regRead (a : RegAddr) : Statement (.regRead a) := by
  simp [Statement, encode, rowsOf_word, opcodeTable, opField, hiField, loField, mnemonic, addrByte_and]

theorem regWrite (a : RegAddr) (v : Byte) : Statement (.regWrite a v) := by
  simp [Statement, encode, rowsOf_word, opcodeTable, opField, hiField, loField, mnemonic, addrByte_and]

theorem regBurstRead (a : RegAddr) (n : Byte) : Statement (.regBurstRead a n) := by
  simp [Statement, encode, rowsOf_word, opcodeTable, opField, hiField, loField, mnemonic, addrByte_and]

theorem regBurstWrite (a : RegAddr) (n : Byte) : Statement (.regBurstWrite a n) := by
  simp [Statement, encode, rowsOf_word, opcodeTable, opField, hiField, loField, mnemonic, addrByte_and]

theorem radioReset : Statement (.radioReset) := by
  simp [Statement, encode, rowsOf_word, opcodeTable, opField, hiField, loField, mnemonic]

theorem radioCheckId : Statement (.radioCheckId) := by
  simp [Statement, encode, rowsOf_word, opcodeTable, opField, hiField, loField, mnemonic]

theorem radioApplyConfig (k : Byte) : Statement (.radioApplyConfig k) := by
  simp [Statement, encode, rowsOf_word, opcodeTable, opField, hiField, loField, mnemonic]

theorem radioSetState (t : Byte) : Statement (.radioSetState t) := by
  simp [Statement, encode, rowsOf_word, opcodeTable, opField, hiField, loField, mnemonic]

theorem radioLoadPacket (n : Byte) : Statement (.radioLoadPacket n) := by
  simp [Statement, encode, rowsOf_word, opcodeTable, opField, hiField, loField, mnemonic]

theorem morseStart (len : Half) : Statement (.morseStart len) := by
  simp [Statement, encode, rowsOf_append, opcodeTable, opField, hiField, loField, mnemonic]

theorem morseTick : Statement (.morseTick) := by
  simp [Statement, encode, rowsOf_word, opcodeTable, opField, hiField, loField, mnemonic]

theorem pnInit (seed : Half) : Statement (.pnInit seed) := by
  simp [Statement, encode, rowsOf_append, opcodeTable, opField, hiField, loField, mnemonic]

theorem pnTick : Statement (.pnTick) := by
  simp [Statement, encode, rowsOf_word, opcodeTable, opField, hiField, loField, mnemonic]

theorem beaconStart (m : Byte) : Statement (.beaconStart m) := by
  simp [Statement, encode, rowsOf_word, opcodeTable, opField, hiField, loField, mnemonic]

theorem beaconStop : Statement (.beaconStop) := by
  simp [Statement, encode, rowsOf_word, opcodeTable, opField, hiField, loField, mnemonic]

theorem beaconService : Statement (.beaconService) := by
  simp [Statement, encode, rowsOf_word, opcodeTable, opField, hiField, loField, mnemonic]

theorem beaconStatus (sel : Byte) : Statement (.beaconStatus sel) := by
  simp [Statement, encode, rowsOf_word, opcodeTable, opField, hiField, loField, mnemonic]

end Sys2Proof.Laws.EncodingRow
end

