-- ==== Sys2Proof/Machine/Macros.lean ====
section
/-! DEFINITION. The four pseudo-commands, as the commands Main issues for them (R115). -/

namespace Sys2Proof.Machine

/-- The pseudo-commands (R115). -/
inductive Macro where
  | radioBoot (k : Byte)
  | sendPacket (n : Byte)
  | stopTx
  | rbDrain (i : Byte)
deriving DecidableEq, Repr

/-- The command at a place of a pseudo-command's expansion, places counted from 0 (R115). -/
def Macro.commandAt (m : Macro) (k : Nat) : Option Instr :=
  match m with
  | .radioBoot p => [.radioReset, .radioCheckId, .radioApplyConfig p, .radioSetState 5#8][k]?
  | .sendPacket n => [.radioLoadPacket n, .radioSetState 8#8][k]?
  | .stopTx => [.beaconStop][k]?
  | .rbDrain i => some (.rbGet i)

/-- The command Main issues next when `k` commands of a pseudo-command have ended, the last with status
`last`: the expansion stops at its end or at the first status that is not `Ok` (R115). -/
def Macro.next (m : Macro) (k : Nat) (last : Status) : Option Instr :=
  if k = 0 ∨ last = .ok then m.commandAt k else none

end Sys2Proof.Machine
end

