-- ==== Sys2Proof/Tests/Slice0.lean ====
section
/-! SUPPORT. Tests of the model on the vectors of 95_test_vectors.md and on words and tables written out from the rules, one step each, and a witness for the hypotheses of every statement. -/

namespace Sys2Proof.Tests

open Sys2Proof Sys2Proof.Machine

/-! ## Helpers -/

/-- The parameters of 95_test_vectors.md, with the made-up lists of V-RD4 and V-RD6. -/
def vectorParams : Params :=
  { defaultParams with
    tickPeriod := 0x0200, unitPeriod := 0x0400, toneDiv := 4
    profile0 := [], profile1 := [(0x6E#7, 0x27#8), (0x6F#7, 0x52#8)], profile2 := []
    xmitDirectList := [(0x71#7, 0x12#8)], xmitPacketList := [(0x71#7, 0x23#8)] }

/-- The start state of the vectors of section 2.6: reset, with the radio in Ready and the timer at
0x1000. -/
def start : State :=
  { State.afterReset vectorParams 0 { Env.none with timerReads := [0x1000, 0x1000, 0x1000] } with
    radioState := .ready }

/-- The radio's one-byte answers in store. -/
def answering (s : State) (l : List Byte) : State :=
  { s with env := { s.env with answers := l.map fun b => ⟨[b], false⟩ } }

/-- The reading of `BEACON_SERVICE` that R260 words, in micro-steps. -/
def inMicroSteps (s : State) : State :=
  { s with params := { s.params with serviceReading := .microSteps } }

/-- The transport answers `k` transactions and fails on the next. -/
def failingAt (k : Nat) (s : State) : State :=
  { s with env := { s.env with answers := List.replicate k ⟨[], false⟩ ++ [⟨[], true⟩] } }

/-- The transport fails on the next transaction. -/
def failing (s : State) : State := failingAt 0 s

/-- One request of Main in store. -/
def asking (s : State) (r : Request) : State := { s with env := { s.env with requests := [r] } }

/-- One turn of the environment in store. -/
def facing (s : State) (t : Turn) : State := { s with env := { s.env with turns := [t] } }

/-- The orchestrator in a mode, as `BEACON_START` leaves its enables. -/
def running (s : State) (m : Mode) : State :=
  { s with beacon := { s.beacon with mode := m, ie := 0b0111#4, ccrA := 0x1200, ccrB := 0x1400 } }

/-- One source pending. -/
def pending (s : State) (x : Source) : State :=
  { s with beacon := { s.beacon with ip := setSource s.beacon.ip x true } }

/-- A fact of the next state, `false` when there is none. -/
def next (o : Host.Outcome State Fault Refusal) (f : State → Bool) : Bool :=
  match o with
  | .next t => f t
  | .fault _ | .refused _ => false

/-! ## Well-formedness: each check refuses -/

/-- One word for each format whose unused bits are not 0, and the unlisted opcodes (R91, R93, 2.7). -/
theorem test_wordWellFormed_refuses :
    [0x310001#24, 0x230100#24, 0x020001#24, 0x100301#24, 0x108000#24, 0x118000#24, 0x000000#24,
      0x070000#24, 0x14007F#24, 0xFF0000#24].all (fun w => !wordWellFormed w) = true := by decide

/-- The words of the vectors are well-formed, formats IB and H with every argument bit set. -/
theorem test_wordWellFormed_accepts :
    [0x310000#24, 0x230005#24, 0x020000#24, 0x100300#24, 0x110780#24, 0x01FFFF#24, 0x30FFFF#24].all
      wordWellFormed = true := by decide

/-- An illegal value of each parameter is refused at construction (R8, R25, R177, R230, U5, U12, D14, D30). -/
theorem test_illegalConfigurations_refused :
    ([ { vectorParams with pnN := 9 }, { vectorParams with pnPeriodTarget := 0#16 },
       { vectorParams with rbW := 0, rbCap0 := 1, rbCap1 := 1 },
       { vectorParams with profile0 := [(0x07#7, 0x00#8)] }, { vectorParams with profile2 := [(0x08#7, 0x00#8)] },
       { vectorParams with rbCap0 := 12 }, { vectorParams with rbCap0 := 0 },
       { vectorParams with rbCap1 := 256 },
       { vectorParams with xmitDirectList := [(0x07#7, 0x00#8)] },
       { vectorParams with xmitPacketList := [(0x08#7, 0x00#8)] },
       { vectorParams with morseTable := defaultMorseTable.tail },
       { vectorParams with morseTable := ⟨0x21#8, false, 0x40#8⟩ :: defaultMorseTable.tail },
       { vectorParams with morseTable := ⟨0x20#8, false, 0xFF#8⟩ :: defaultMorseTable.tail },
       { vectorParams with msgSize := 65536 }, { vectorParams with toneDiv := 0 },
       { vectorParams with irqOrder := [.cmpA, .cmpA, .nirq, .txclk] },
       { vectorParams with serviceReading := .microSteps } ]).all
      (fun p => match State.construct p with | .refused r => r = .illegalConfiguration | _ => false) =
      true := by decide

/-- A wide index with a small capacity is a configuration (R8, R25), and a running block may have a profile
that names an operating-mode register, which it could not be built with (R170, D14). -/
theorem test_legal_accepts :
    ({ vectorParams with rbW := 32 } : Params).constructible = true ∧
    ({ vectorParams with profile1 := [(0x07#7, 0x00#8)] } : Params).legal = true := by decide

/-- The configuration of the vectors is accepted. -/
theorem test_vectorParams_legal : vectorParams.constructible = true := by decide

/-! ## Decoding: one word of each command, from R91 to R94 and 95_test_vectors.md -/

theorem test_decode_ring :
    decode 0x010011#24 = .ok (.rbPut 0x00#8 0x11#8) ∧ decode 0x020000#24 = .ok (.rbGet 0x00#8) ∧
    decode 0x030100#24 = .ok (.rbLen 0x01#8) ∧ decode 0x040002#24 = .ok (.rbPeek 0x00#8 0x02#8) ∧
    decode 0x050100#24 = .ok (.rbIsFull 0x01#8) ∧ decode 0x06FF00#24 = .ok (.rbIsEmpty 0xFF#8) := by
  decide

theorem test_decode_register :
    decode 0x107F00#24 = .ok (.regRead 0x7F#7) ∧ decode 0x110780#24 = .ok (.regWrite 0x07#7 0x80#8) ∧
    decode 0x120302#24 = .ok (.regBurstRead 0x03#7 0x02#8) ∧
    decode 0x137F40#24 = .ok (.regBurstWrite 0x7F#7 0x40#8) := by decide

theorem test_decode_radio :
    decode 0x200000#24 = .ok .radioReset ∧ decode 0x210000#24 = .ok .radioCheckId ∧
    decode 0x220001#24 = .ok (.radioApplyConfig 0x01#8) ∧
    decode 0x23000A#24 = .ok (.radioSetState 0x0A#8) ∧
    decode 0x2400FF#24 = .ok (.radioLoadPacket 0xFF#8) := by decide

theorem test_decode_generators :
    decode 0x300101#24 = .ok (.morseStart 0x0101#16) ∧ decode 0x310000#24 = .ok .morseTick ∧
    decode 0x400080#24 = .ok (.pnInit 0x0080#16) ∧ decode 0x410000#24 = .ok .pnTick := by decide

theorem test_decode_beacon :
    decode 0x500002#24 = .ok (.beaconStart 0x02#8) ∧ decode 0x510000#24 = .ok .beaconStop ∧
    decode 0x520000#24 = .ok .beaconService ∧ decode 0x530009#24 = .ok (.beaconStatus 0x09#8) := by
  decide

/-- The illegal words of section 2.7 (R112). -/
theorem test_decode_illegal :
    decode 0x000000#24 = .illegal .unlistedOpcode ∧ decode 0x14007F#24 = .illegal .unlistedOpcode ∧
    decode 0x020001#24 = .illegal .unusedBitSet ∧ decode 0x108000#24 = .illegal .unusedBitSet ∧
    decode 0x100301#24 = .illegal .unusedBitSet ∧ decode 0x310001#24 = .illegal .unusedBitSet ∧
    decode 0x230100#24 = .illegal .unusedBitSet := by decide

/-- Encoding: the words of V-RB1, V-SPI2, V-M6 and V-OR1. -/
theorem test_encode :
    encode (.rbPut 0x00#8 0x11#8) = 0x010011#24 ∧ encode (.regWrite 0x7F#7 0xFF#8) = 0x117FFF#24 ∧
    encode (.morseStart 257#16) = 0x300101#24 ∧ encode (.beaconStart 2#8) = 0x500002#24 := by decide

/-- The written form of R114. -/
theorem test_written : written (.rbPut 0#8 0x11#8) = "RB_PUT 0, 17" ∧ written .pnTick = "PN_TICK" := by
  decide

/-! ## Tables -/

/-- The dots and dashes of R110, entry by entry but for the word space, `o` a dot and `x` a dash. -/
def printedSymbols (o x : Bool) : List (List Bool) :=
    [ [x, o, x, o, x, x], [o, x, o, o, x, o], [o, x, o, o, o], [o, x, x, x, x, o],
      [x, o, x, x, o], [x, o, x, x, o, x], [o, x, o, x, o], [x, x, o, o, x, x],
      [x, o, o, o, o, x], [o, x, o, x, o, x], [x, o, o, x, o], [x, x, x, x, x],
      [o, x, x, x, x], [o, o, x, x, x] ] ++
    [ [o, o, o, x, x], [o, o, o, o, x], [o, o, o, o, o], [x, o, o, o, o], [x, x, o, o, o],
      [x, x, x, o, o], [x, x, x, x, o], [x, x, x, o, o, o], [x, o, x, o, x, o],
      [x, o, o, o, x], [o, o, x, x, o, o], [o, x, x, o, x, o], [o, x], [x, o, o, o] ] ++
    [ [x, o, x, o], [x, o, o], [o], [o, o, x, o], [x, x, o], [o, o, o, o], [o, o],
      [o, x, x, x], [x, o, x], [o, x, o, o], [x, x], [x, o], [x, x, x], [o, x, x, o] ] ++
    [ [x, x, o, x], [o, x, o], [o, o, o], [x], [o, o, x], [o, o, o, x], [o, x, x],
      [x, o, o, x], [x, o, x, x], [x, x, o, o], [o, o, x, x, o, x] ]

/-- The letter codes of R110 are those of their dots and dashes (R104). -/
theorem test_morseTable_codes :
    (defaultMorseTable.filter fun e => !e.ws).map (·.code) = (printedSymbols false true).map letterCode :=
  by decide

/-- The result words of V-RB1, V-RB5 and V-OR2 (R96, R97). -/
theorem test_resultWord :
    resultWord .ok 0x33#16 = 0x000033#24 ∧ resultWord .empty 0#16 = 0x020000#24 ∧
    resultWord .illegalOperand 1#16 = 0x0A0001#24 ∧ resultWord .identityMismatch 0x0807#16 = 0x040807#24 :=
  by decide

/-- The wire bytes of V-SPI2 and V-SPI4 (R98, R99). -/
theorem test_wireBytes :
    wireBytes (.spi .wr 0x07#7 [0x80#8] []) = [0x87#8, 0x80#8] ∧
    wireBytes (.spi .rd 0x03#7 [0x00#8, 0x00#8] [0x04#8, 0x02#8]) = [0x03#8, 0x00#8, 0x00#8] := by decide

/-- The macros of R115: RADIO_BOOT 1 and SEND_PACKET 3, and the stop at a bad status. -/
theorem test_macros :
    (Macro.radioBoot 1#8).next 0 .ok = some .radioReset ∧
    (Macro.radioBoot 1#8).next 3 .ok = some (.radioSetState 5#8) ∧
    (Macro.radioBoot 1#8).next 1 .porTimeout = none ∧
    (Macro.sendPacket 3#8).next 1 .ok = some (.radioSetState 8#8) ∧
    Macro.stopTx.next 1 .ok = none ∧ (Macro.rbDrain 1#8).next 7 .ok = some (.rbGet 1#8) := by decide

/-! ## Ring buffer -/

/-- The start state of V-RB1. -/
def ringStart : State := { start with rb0 := { start.rb0 with head := 0xFE, tail := 0xFE } }

/-- `rb[0]` after the three puts of V-RB1. -/
def ringThree : State :=
  { start with rb0 := ⟨[(0, 0x33#8), (14, 0x11#8), (15, 0x22#8)], 0x01, 0xFE⟩ }

/-- `rb[1]` full (V-RB2): 16 bytes. -/
def ringFull : State := { start with rb1 := { start.rb1 with head := 0x10 } }

/-- V-RB1 line 2, step P1. -/
theorem test_rbPut_check :
    next (exec (.rbPut 0#8 0x11#8) ringStart) (fun t => t.mainRb = .put .rb0 0xFE 0x11#8 .checked
      ∧ t.trace = []) = true := by decide

/-- V-RB2: a put into a full instance. -/
theorem test_rbPut_full :
    next (exec (.rbPut 1#8 0xB0#8) ringFull) (fun t => t.trace = [.result .full 0#16]) = true := by decide

/-- V-RB1 line 3, the steps P2 and P3: the byte in slot 15, then the head past zero. -/
theorem test_rbPut_store_and_publish :
    next (step { ringStart with mainRb := .put .rb0 0xFF 0x22#8 .checked })
      (fun t => t.rb0.buf = [(15, 0x22#8)] ∧ t.rb0.head = 0xFE) = true ∧
    next (step { ringStart with mainRb := .put .rb0 0xFF 0x22#8 .stored })
      (fun t => t.rb0.head = 0x00 ∧ t.trace = [.result .ok 0#16]) = true := by decide

/-- V-RB1 line 11 and V-RB5. -/
theorem test_rbGet_fails :
    next (exec (.rbGet 0#8) ringStart) (fun t => t.trace = [.result .empty 0#16]) = true ∧
    next (exec (.rbGet 2#8) ringStart) (fun t => t.trace = [.result .illegalOperand 0#16]) = true := by
  decide

/-- V-RB1 line 9, the steps G2 and G3: the byte of slot 15, then the tail past zero. -/
theorem test_rbGet_load_and_publish :
    next (step { ringThree with mainRb := .get .rb0 0xFF .checked })
      (fun t => t.mainRb = .get .rb0 0xFF (.loaded 0x22#8) ∧ t.rb0.tail = 0xFE) = true ∧
    next (step { ringThree with mainRb := .get .rb0 0xFF (.loaded 0x22#8) })
      (fun t => t.rb0.tail = 0x00 ∧ t.trace = [.result .ok 0x22#16]) = true := by decide

/-- V-RB1 line 5. -/
theorem test_rbLen :
    next (exec (.rbLen 0#8) ringThree) (fun t => t.trace = [.result .ok 3#16]) = true := by decide

/-- V-RB1 lines 6 and 7. -/
theorem test_rbPeek :
    next (exec (.rbPeek 0#8 2#8) ringThree) (fun t => t.trace = [.result .ok 0x33#16]) = true ∧
    next (exec (.rbPeek 0#8 3#8) ringThree) (fun t => t.trace = [.result .empty 0#16]) = true := by decide

/-- V-RB2. -/
theorem test_rbIsFull :
    next (exec (.rbIsFull 1#8) ringFull) (fun t => t.trace = [.result .ok 1#16]) = true ∧
    next (exec (.rbIsFull 0#8) ringThree) (fun t => t.trace = [.result .ok 0#16]) = true := by decide

/-- V-RB1 lines 1 and 12. -/
theorem test_rbIsEmpty :
    next (exec (.rbIsEmpty 0#8) ringStart) (fun t => t.trace = [.result .ok 1#16]) = true ∧
    next (exec (.rbIsEmpty 0#8) ringThree) (fun t => t.trace = [.result .ok 0#16]) = true := by decide

/-- V-RB3: between P2 and P3 the handler sees the old head and reports an underrun. -/
theorem test_handler_between_micro_steps :
    next (step (pending { running start .queueDirect with
        rb0 := ⟨[(5, 1#8)], 5, 5⟩, mainRb := .put .rb0 5 1#8 .stored } .cmpA))
      (fun t => t.mainRb = .put .rb0 5 1#8 .stored ∧ t.beacon.flags = 0x01#8 ∧
        t.trace = [.irq .cmpA, .pin .data false, .ccr .a 0x1400]) = true := by decide

/-! ## Register access -/

/-- V-SPI1. -/
theorem test_regRead :
    next (exec (.regRead 0x03#7) (answering start [0x5A#8]))
      (fun t => t.trace = [.spi .rd 0x03#7 [0x00#8] [0x5A#8], .result .ok 0x5A#16]) = true := by decide

/-- V-SPI7, second command: nothing on the bus once `spi_fault` is set. -/
theorem test_regRead_faulted :
    next (exec (.regRead 0x03#7) { start with spiFault := true })
      (fun t => t.trace = [.result .transportError 0#16]) = true := by decide

/-- V-SPI2. -/
theorem test_regWrite :
    next (exec (.regWrite 0x07#7 0x80#8) start)
      (fun t => t.trace = [.spi .wr 0x07#7 [0x80#8] [], .result .ok 0#16]) = true := by decide

/-- V-SPI7, first command. -/
theorem test_regWrite_fails :
    next (exec (.regWrite 0x07#7 0x01#8) (failing start))
      (fun t => t.spiFault = true ∧
        t.trace = [.spi .wr 0x07#7 [0x01#8] [], .result .transportError 0#16]) = true := by decide

/-- V-SPI4: both bytes land, the third is untouched. -/
theorem test_regBurstRead :
    next (exec (.regBurstRead 0x03#7 2#8)
        { start with
          xfer := [(2, 0x77#8)], env := { start.env with answers := [⟨[0x04#8, 0x02#8], false⟩] } })
      (fun t => t.xfer = [(0, 0x04#8), (1, 0x02#8), (2, 0x77#8)] ∧
        t.trace = [.spi .rd 0x03#7 [0x00#8, 0x00#8] [0x04#8, 0x02#8], .result .ok 2#16]) = true := by
  decide

/-- V-SPI5. -/
theorem test_burst_counts :
    next (exec (.regBurstRead 0x00#7 0#8) start) (fun t => t.trace = [.result .illegalOperand 0#16]) =
      true ∧
    next (exec (.regBurstWrite 0x00#7 65#8) start) (fun t => t.trace = [.result .illegalOperand 0#16]) =
      true := by decide

/-- V-SPI3. -/
theorem test_regBurstWrite :
    next (exec (.regBurstWrite 0x7F#7 3#8)
        { start with xfer := [(0, 0xAA#8), (1, 0xBB#8), (2, 0xCC#8)] })
      (fun t => t.trace = [.spi .wr 0x7F#7 [0xAA#8, 0xBB#8, 0xCC#8] [], .result .ok 3#16]) = true := by
  decide

/-! ## Radio driver -/

/-- V-RD1. -/
theorem test_radioReset :
    next (exec .radioReset (answering start [0x99#8, 0x00#8, 0x03#8]))
      (fun t => t.trace = [.spi .wr 0x07#7 [0x80#8] [], .delay .resetDelay,
        .spi .rd 0x03#7 [0x00#8] [0x00#8], .spi .rd 0x04#7 [0x00#8] [0x03#8], .result .ok 3#16]) =
      true := by decide

/-- V-RD2: the power-on-reset bit clear. -/
theorem test_radioReset_porTimeout :
    next (exec .radioReset (answering start [0x99#8, 0x00#8, 0x02#8]))
      (fun t => t.lastResult = some 0x030002#24) = true := by decide

/-- V-RD3: type first, and a mismatch in the second byte. -/
theorem test_radioCheckId :
    next (exec .radioCheckId (answering start [0x08#8, 0x06#8]))
      (fun t => t.lastResult = some 0x000806#24) = true ∧
    next (exec .radioCheckId (answering start [0x08#8, 0x07#8]))
      (fun t => t.lastResult = some 0x040807#24) = true := by decide

/-- V-RD4. -/
theorem test_radioApplyConfig :
    next (exec (.radioApplyConfig 1#8) start)
      (fun t => t.trace = [.spi .wr 0x6E#7 [0x27#8] [], .spi .wr 0x6F#7 [0x52#8] [], .result .ok 2#16]) =
      true ∧
    next (exec (.radioApplyConfig 3#8) start) (fun t => t.trace = [.result .illegalOperand 0#16]) = true :=
  by decide

/-- V-RD6, from XmitPacket to XmitPacket: the same state is not skipped. -/
theorem test_radioSetState :
    next (exec (.radioSetState 8#8) { start with radioState := .xmitPacket })
      (fun t => t.radioState = .xmitPacket ∧
        t.trace = [.spi .wr 0x07#7 [0x01#8] [], .spi .wr 0x71#7 [0x23#8] [], .spi .wr 0x08#7 [0x00#8] [],
          .spi .wr 0x07#7 [0x09#8] [], .result .ok 8#16]) = true := by decide

/-- V-RD10: a failure on the second transaction leaves `RadioState`. -/
theorem test_radioSetState_fails :
    next (exec (.radioSetState 7#8)
        { start with
          radioState := .xmitPacket
          env := { start.env with answers := [⟨[], false⟩, ⟨[], true⟩] } })
      (fun t => t.radioState = .xmitPacket ∧ t.spiFault = true ∧
        t.trace = [.spi .wr 0x07#7 [0x01#8] [], .spi .wr 0x71#7 [0x12#8] [],
          .result .transportError 0#16]) = true := by decide

/-- V-RD8 with three bytes: the eight transactions of R182. -/
theorem test_radioLoadPacket :
    next (exec (.radioLoadPacket 3#8)
        (answering { start with xfer := [(0, 0x41#8), (1, 0x42#8), (2, 0x43#8)] } (List.replicate 8 0x00#8)))
      (fun t => t.trace = [.spi .wr 0x08#7 [0x01#8] [], .spi .wr 0x08#7 [0x00#8] [],
        .spi .wr 0x3E#7 [0x03#8] [], .spi .wr 0x7F#7 [0x41#8, 0x42#8, 0x43#8] [],
        .spi .wr 0x05#7 [0x04#8] [], .spi .wr 0x06#7 [0x00#8] [], .spi .rd 0x03#7 [0x00#8] [0x00#8],
        .spi .rd 0x04#7 [0x00#8] [0x00#8], .result .ok 3#16]) = true := by decide

/-- V-RD9. -/
theorem test_radioLoadPacket_tooLarge :
    next (exec (.radioLoadPacket 65#8) start) (fun t => t.trace = [.result .payloadTooLarge 0#16]) = true :=
  by decide

/-! ## Morse -/

/-- The generator after `MORSE_START` of a message. -/
def keying (l : Half) (msg : Memory) : State :=
  { start with morse := ⟨0x00#8, 0x00#8, 0#16, l, true⟩, msg := msg }

/-- V-M6. -/
theorem test_morseStart :
    next (exec (.morseStart 256#16) start)
      (fun t => t.morse = ⟨0x00#8, 0x00#8, 0#16, 256#16, true⟩ ∧ t.trace = [.result .ok 0#16]) = true ∧
    next (exec (.morseStart 257#16) start)
      (fun t => t.morse = start.morse ∧ t.trace = [.result .illegalOperand 0#16]) = true := by decide

/-- V-M1 calls 1 and 17: a fetch, and the last dash of a letter. -/
theorem test_morseTick_symbols :
    next (exec .morseTick (keying 3#16 [(0, 0x53#8), (1, 0x4F#8), (2, 0x53#8)]))
      (fun t => t.morse = ⟨0x3F#8, 0x7F#8, 1#16, 3#16, true⟩ ∧ t.trace = [.result .ok 1#16]) = true ∧
    next (exec .morseTick { start with morse := ⟨0x80#8, 0xFF#8, 2#16, 3#16, true⟩ })
      (fun t => t.morse = ⟨0x00#8, 0xC7#8, 2#16, 3#16, true⟩ ∧ t.trace = [.result .ok 1#16]) = true := by
  decide

/-- V-M4 and V-M1 call 31: an unmapped character, and the end of the message. -/
theorem test_morseTick_error_and_done :
    next (exec .morseTick (keying 1#16 [(0, 0x65#8)]))
      (fun t => t.morse = ⟨0x00#8, 0x00#8, 1#16, 1#16, true⟩ ∧
        t.trace = [.result .invalidCharacter 0x65#16]) = true ∧
    next (exec .morseTick { start with morse := ⟨0xFF#8, 0xFF#8, 3#16, 3#16, true⟩ })
      (fun t => t.morse.active = false ∧ t.trace = [.result .ok 2#16]) = true := by decide

/-! ## PN -/

/-- V-PN6: the largest legal seed, and the first illegal one. -/
theorem test_pnInit :
    next (exec (.pnInit 15#16) start) (fun t => t.pn = ⟨15, 15, 0#16, false⟩) = true ∧
    next (exec (.pnInit 16#16) start)
      (fun t => t.pn = start.pn ∧ t.trace = [.result .illegalOperand 0#16]) = true := by decide

/-- V-PN2 call 4, with bit 0 set, and call 15, which completes. -/
theorem test_pnTick :
    next (exec .pnTick { start with pn := ⟨1, 8, 0#16, false⟩ })
      (fun t => t.pn.reg = 9 ∧ t.trace = [.result .ok 0#16]) = true ∧
    next (exec .pnTick { start with pn := ⟨3, 8, 0#16, false⟩ })
      (fun t => t.pn = ⟨8, 8, 1#16, true⟩ ∧ t.trace = [.result .ok 0x0100#16]) = true := by decide

/-- V-PN3: `reg` after calls 1 to 8 with n = 8, from 0x80. -/
theorem test_pnNext :
    (List.range 9).map (fun k => pnIterate 8 0x11D k 0x80) =
      [0x80, 0x40, 0x20, 0x10, 0x08, 0x04, 0x02, 0x01, 0x8E] := by decide

/-! ## Orchestrator -/

/-- V-OR1, with `CFG_XMIT_DIRECT` of V-RD6. -/
theorem test_beaconStart :
    next (exec (.beaconStart 2#8) start)
      (fun t => t.beacon.ie = 0b0111#4 ∧ t.radioState = .xmitDirect ∧
        t.trace = [.spi .wr 0x71#7 [0x12#8] [], .spi .wr 0x08#7 [0x00#8] [], .spi .wr 0x07#7 [0x09#8] [],
          .pin .data false, .ccr .b 0x1400, .ccr .a 0x1200, .result .ok 2#16]) = true := by decide

/-- V-OR2: a running beacon. -/
theorem test_beaconStart_running :
    next (exec (.beaconStart 2#8) (running start .pnDirect))
      (fun t => t.lastResult = some 0x0A0001#24 ∧ t.beacon.mode = .pnDirect) = true := by decide

/-- V-OR4: the stop from mode Tone, with a stale CMP_A event that stays pending. -/
theorem test_beaconStop :
    next (exec .beaconStop (pending { start with
        radioState := .xmitDirect, beacon := { start.beacon with mode := .tone, ie := 0b1110#4 } } .cmpA))
      (fun t => t.beacon.ie = 0b0010#4 ∧ t.beacon.ip = 0b0001#4 ∧ t.beacon.mode = .off ∧
        t.trace = [.spi .wr 0x07#7 [0x01#8] [], .spi .wr 0x08#7 [0x00#8] [], .spi .wr 0x07#7 [0x01#8] [],
          .pin .data false, .result .ok 5#16]) = true := by decide

/-- V-RD10, its last command. -/
theorem test_beaconStop_faulted :
    next (exec .beaconStop { running start .morseDirect with spiFault := true })
      (fun t => t.beacon.mode = .off ∧ t.trace = [.pin .data false, .result .transportError 0#16]) = true :=
  by decide

/-- V-OR9: an empty queue, and the last step of a service of request 9. -/
theorem test_beaconService :
    next (exec .beaconService start) (fun t => t.trace = [.result .empty 0#16]) = true ∧
    next (step { start with service := .apply 9#8 })
      (fun t => t.service = .idle ∧ t.trace = [.result .notImplemented 0#16]) = true := by decide

/-- R260's example as one step: the request is served before anything else can happen (R69, R70). -/
theorem test_beaconService_whole :
    next (exec .beaconService { start with
        params := { vectorParams with xmitPacketList := [] }, rb1 := ⟨[(0, 8#8)], 1, 0⟩ })
      (fun t => t.rb1.tail = 1 ∧ t.radioState = .xmitPacket ∧ t.mainRb = .none ∧
        t.trace = [.spi .wr 0x08#7 [0x00#8] [], .spi .wr 0x07#7 [0x09#8] [], .result .ok 8#16]) = true := by
  decide

/-- V-OR1: `BEACON_STATUS 0` and `BEACON_STATUS 3`. -/
theorem test_beaconStatus :
    next (exec (.beaconStatus 0#8) (running start .morseDirect))
      (fun t => t.trace = [.result .ok 0x7200#16]) = true ∧
    next (exec (.beaconStatus 3#8) { start with radioState := .xmitPacket, spiFault := true })
      (fun t => t.trace = [.result .ok 0x0018#16]) = true := by decide

/-- V-OR4 and V-OR10: selectors 8 and 9. -/
theorem test_beaconStatus_last :
    next (exec (.beaconStatus 8#8) (pending start .cmpA)) (fun t => t.trace = [.result .ok 0x0006#16]) =
      true ∧
    next (exec (.beaconStatus 9#8) start) (fun t => t.trace = [.result .illegalOperand 0#16]) = true := by
  decide

/-! ## Handlers and the environment -/

/-- V-OR7: the second occurrence of an enabled source is lost and flagged; a disabled source raises no
flag. -/
theorem test_arrival :
    next (step (facing (pending (running start .pnDirect) .cmpA) (.event .cmpA)))
      (fun t => t.beacon.flags = 0x08#8) = true ∧
    next (step (facing (pending start .nirq) (.event .nirq)))
      (fun t => t.beacon.flags = 0x00#8 ∧ t.beacon.ip = 0b0100#4) = true := by decide

/-- V-OR6 (3): the Done symbol stops the beacon and leaves the compare register. -/
theorem test_handler_queue_done :
    next (step (pending { running start .queueDirect with
        radioState := .xmitDirect, rb0 := ⟨[(0, 2#8)], 1, 0⟩ } .cmpA))
      (fun t => t.beacon.mode = .off ∧ t.beacon.ccrA = 0x1200 ∧ t.rb0.tail = 1 ∧
        t.trace = [.irq .cmpA, .spi .wr 0x07#7 [0x01#8] [], .spi .wr 0x08#7 [0x00#8] [],
          .spi .wr 0x07#7 [0x01#8] [], .pin .data false]) = true := by decide

/-- P7 round 1 and V-OR12: a key-down is queued as request 8; a full queue flags it. -/
theorem test_handler_packet :
    next (step (pending { running start .pnPacket with pn := ⟨8, 8, 0#16, false⟩ } .cmpA))
      (fun t => t.rb1 = ⟨[(0, 8#8)], 1, 0⟩ ∧ t.beacon.lastKey = true ∧
        t.trace = [.irq .cmpA, .ccr .a 0x1400]) = true ∧
    next (step (pending { running ringFull .pnPacket with pn := ⟨8, 8, 0#16, false⟩ } .cmpA))
      (fun t => t.rb1.head = 0x10 ∧ t.beacon.lastKey = false ∧ t.beacon.flags = 0x02#8) = true := by
  decide

/-- V-OR5 and V-OR4: the wall clock, and the fourth event of the tone. -/
theorem test_handler_timers :
    next (step (pending (running start .tone) .cmpB))
      (fun t => t.beacon.wallclock = 1#32 ∧ t.trace = [.irq .cmpB, .ccr .b 0x1800]) = true ∧
    next (step (pending { start with
        beacon := { start.beacon with mode := .tone, ie := 0b1110#4, toneCount := 3#16 } } .txclk))
      (fun t => t.beacon.toneCount = 0#16 ∧ t.trace = [.irq .txclk, .pin .data true]) = true := by decide

/-- P4 line 10 and V-OR8: with and without the packet-sent bit. -/
theorem test_handler_nirq :
    next (step (pending (answering { running start .packet with radioState := .xmitPacket }
        [0x04#8, 0x00#8]) .nirq))
      (fun t => t.radioState = .ready ∧ t.trace.length = 6) = true ∧
    next (step (pending (answering { running start .packet with radioState := .xmitPacket }
        [0x00#8, 0x02#8]) .nirq))
      (fun t => t.radioState = .xmitPacket ∧ t.trace = [.irq .nirq, .spi .rd 0x03#7 [0x00#8] [0x00#8],
        .spi .rd 0x04#7 [0x00#8] [0x02#8]]) = true := by decide

/-- An illegal word changes nothing but the trace (V-RB6). -/
theorem test_illegal_word :
    next (step (asking start (.command 0x020001#24))) (fun t => t.lastResult = some 0x090000#24) = true := by
  decide

/-- A host write between two micro-steps of a put, which stays in flight (R40, R95). -/
theorem test_host_write_between_micro_steps :
    next (step { start with
        mainRb := .put .rb0 5 1#8 .stored
        env := { start.env with requests := [.hostWrite .msg 7 0x41#8], turns := [.host] } })
      (fun t => t.msg = [(7, 0x41#8)] ∧ t.mainRb = .put .rb0 5 1#8 .stored ∧ t.env.requests = []) = true := by
  decide

/-- The host's fetch: the word given is the command the next step runs. -/
theorem test_withFetchWord :
    next (step (State.reset.withFetchWord 24 0x410000)) (fun t => t.trace = [.result .ok 0x0100#16]) = true :=
  by decide

/-! ## A witness for the hypotheses of every statement that has any

Each names its statement; a statement with several clauses has a state or an operand for each, at a
boundary of its range. -/

/-- A free Main with one command word on the port. -/
def commanded (w : Word) : State := asking start (.command w)

/-- A Morse generator at work. -/
def morseAt (symbol key : Byte) (cursor len : Half) : State :=
  { start with morse := ⟨symbol, key, cursor, len, true⟩, msg := [(0, 0x45#8), (1, 0x20#8), (2, 0x65#8)] }

/-- `start` with the other policy for unmapped characters. -/
def lenient (s : State) : State := { s with params := { s.params with morseUnmapped := .wordSpace } }

theorem witness_EncodeOfDecodeIsTheWord : decode 0x117FFF#24 = .ok (.regWrite 0x7F#7 0xFF#8) := by decide

theorem witness_OpcodeTableDecides :
    (∃ r ∈ opcodeTable, 0x137FFF#24 &&& r.mask = r.pattern) ∧
    (∀ r ∈ opcodeTable, 0x138000#24 &&& r.mask ≠ r.pattern) := by decide

theorem witness_StepRunsTheDecodedCommand :
    (commanded 0x310000#24).nextInterrupt = none ∧ (commanded 0x310000#24).mainRb = .none ∧
    (commanded 0x310000#24).service = .idle ∧
    (commanded 0x310000#24).env.requests = [.command 0x310000#24] ∧
    decode 0x310000#24 = .ok .morseTick ∧ (commanded 0x310000#24).env.turns = [] ∧
    (facing (commanded 0x310000#24) .ncb).nextInterrupt = none ∧
    (facing (commanded 0x310000#24) .ncb).env.turns = [.ncb] ∧
    (facing (commanded 0x310000#24) .host).nextInterrupt = none ∧
    (facing (commanded 0x310000#24) .host).env.turns = [.host] := by decide

theorem witness_StepStopsOnlyAtAbsentAddress :
    step (asking start (.hostWrite .msg 256 0x00#8)) = .fault .noSuchAddress ∧
    step (asking start (.hostRead .xfer 64)) = .fault .noSuchAddress := ⟨rfl, rfl⟩

theorem witness_TraceOnlyGrowsAndConfigurationStays :
    (∃ t, step (commanded 0x310000#24) = .next t) ∧ (commanded 0x310000#24).NoReset := ⟨⟨_, rfl⟩, by decide⟩

theorem witness_BlockResetLeavesTheResetValues :
    (facing (running start .tone) .blockReset).env.turns = [.blockReset] := by decide

theorem witness_WrapAroundLaw :
    (1 ≤ 8 ∧ 16 ≤ 2 ^ (8 - 1) ∧ 0xFE < 2 ^ 8 ∧ 16 ≤ 16) ∧ (1 ≤ 1 ∧ 1 ≤ 2 ^ (1 - 1) ∧ 1 < 2 ^ 1 ∧ 0 ≤ 1) := by
  decide

theorem witness_RingCommandFailures :
    2 ≤ (2#8).toNat ∧ RingId.ofByte 1#8 = some .rb1 ∧ ringFull.isFull .rb1 = true ∧
    RingId.ofByte 0#8 = some .rb0 ∧ ringFull.isEmpty .rb0 = true := by decide

/-- One byte short of full. -/
def ringRoom : State := asking { start with rb1 := { start.rb1 with head := 0x0F } } (.command 0x0101B0#24)

theorem witness_RbPutStoresThenPublishes :
    RingId.ofByte 1#8 = some .rb1 ∧ ringRoom.isFull .rb1 = false ∧ ringRoom.MainFree ∧
    ringRoom.env.requests = [.command (encode (.rbPut 1#8 0xB0#8))] := by decide

theorem witness_RbGetLoadsThenPublishes :
    RingId.ofByte 0#8 = some .rb0 ∧ ringThree.isEmpty .rb0 = false ∧
    (asking ringThree (.command 0x020000#24)).MainFree ∧
    (asking ringThree (.command 0x020000#24)).env.requests = [.command (encode (.rbGet 0#8))] := by decide

theorem witness_RingQueriesReportWithoutConsuming :
    RingId.ofByte 0#8 = some .rb0 ∧ subW ringThree.params.rbW ringThree.rb0.head ringThree.rb0.tail < 2 ^ 16 ∧
    (2#8).toNat < ringThree.occupied .rb0 ∧
    ringThree.occupied .rb0 ≤ (3#8).toNat := by decide

theorem witness_RingIsAQueue :
    ringThree.params.legal = true ∧ ringThree.RingOk .rb0 ∧ (.rb1 : RingId) ≠ .rb0 ∧
    (∃ t, ringPut .rb0 0x44#8 ringThree = some t) ∧ (∃ t, ringGet .rb0 ringThree = some (0x11#8, t)) ∧
    ringFull.params.legal = true ∧ ringFull.RingOk .rb1 ∧ ringPut .rb1 0x44#8 ringFull = none ∧
    ringStart.RingOk .rb0 ∧ ringGet .rb0 ringStart = none :=
  ⟨by decide, by decide, by decide, ⟨_, rfl⟩, ⟨_, rfl⟩, by decide, by decide, by decide, by decide,
    by decide⟩

/-- A put of Main in flight into the last free slot. -/
def ringPutting : State := { ringRoom with mainRb := .put .rb1 0x0F 0xB0#8 .stored }

theorem witness_RingInvariantKept : ringPutting.RingInv ∧ ∃ t, step ringPutting = .next t :=
  ⟨⟨by decide, by decide, by decide, by decide, by decide, by decide⟩, ⟨_, rfl⟩⟩

theorem witness_MemoryInvariantKept :
    (asking ringThree (.hostWrite .msg 255 0x41#8)).params.legal = true ∧
    (asking ringThree (.hostWrite .msg 255 0x41#8)).MemoryCanonical ∧
    (asking ringThree (.hostWrite .msg 255 0x41#8)).MemoryInRange ∧
    ∃ t, step (asking ringThree (.hostWrite .msg 255 0x41#8)) = .next t :=
  ⟨by decide, by decide, by decide, ⟨_, rfl⟩⟩

/-- The host writes XFER while a put of Main is in flight. -/
def midPut : State :=
  { start with
    mainRb := .put .rb1 0x0F 0xB0#8 .stored
    env := { Env.none with requests := [.hostWrite .xfer 63 0x41#8], turns := [.host] } }

theorem witness_HostWriteIsReadBack :
    (asking start (.hostWrite .msg 255 0x41#8)).MakesHostAccess (.hostWrite .msg 255 0x41#8) start ∧
    255 < start.params.hostSize .msg ∧
    (asking start (.hostWrite .xfer 64 0x41#8)).MakesHostAccess (.hostWrite .xfer 64 0x41#8) start ∧
    start.params.hostSize .xfer ≤ 64 ∧
    (asking start (.hostRead .xfer 63)).MakesHostAccess (.hostRead .xfer 63) start ∧
    63 < start.params.hostSize .xfer ∧
    (asking start (.hostRead .msg 256)).MakesHostAccess (.hostRead .msg 256) start ∧
    start.params.hostSize .msg ≤ 256 ∧
    midPut.MakesHostAccess (.hostWrite .xfer 63 0x41#8) { midPut with env := Env.none } :=
  ⟨⟨by decide, [], rfl, .inl ⟨by decide, rfl⟩⟩, by decide, ⟨by decide, [], rfl, .inl ⟨by decide, rfl⟩⟩, by decide,
    ⟨by decide, [], rfl, .inl ⟨by decide, rfl⟩⟩, by decide, ⟨by decide, [], rfl, .inl ⟨by decide, rfl⟩⟩, by decide,
    ⟨by decide, [], rfl, .inr ⟨[], rfl, rfl⟩⟩⟩

theorem witness_RegReadAndRegWrite : start.BusHealthy 1 ∧ (answering start [0x5A#8]).BusHealthy 1 := by decide

theorem witness_RegBurstReadFillsXfer :
    start.BusHealthy 1 ∧ 1 ≤ (1#8).toNat ∧ (1#8).toNat ≤ 64 ∧ 1 ≤ (64#8).toNat ∧ (64#8).toNat ≤ 64 := by
  decide

theorem witness_RegBurstWriteSendsXfer :
    start.BusHealthy 1 ∧ 1 ≤ (1#8).toNat ∧ (1#8).toNat ≤ 64 ∧ 1 ≤ (64#8).toNat ∧ (64#8).toNat ≤ 64 := by
  decide

theorem witness_BurstAndPayloadCountsChecked : (0#8).toNat = 0 ∧ 64 < (65#8).toNat := by decide

/-- A request for Ready in `rb[1]`. -/
def requested : State := { start with rb1 := ⟨[(0, 5#8)], 1, 0⟩ }

theorem witness_FailedTransactionSetsSpiFault :
    (failing start).FailsAt 0 ∧ 1 ≤ (1#8).toNat ∧ 1 ≤ (64#8).toNat ∧ (64#8).toNat ≤ 64 ∧
    (failingAt 1 start).FailsAt 1 ∧
    (∃ h, exec (.radioSetState 5#8) (failingAt 1 start).healed = .next h ∧
      h.trace = start.trace ++ [.spi .wr 0x08#7 [0x00#8] [], .spi .wr 0x07#7 [0x01#8] []] ++
        [.result .ok 5#16]) ∧
    1 < ([.spi .wr 0x08#7 [0x00#8] [], .spi .wr 0x07#7 [0x01#8] []].filter TraceEvent.isSpi).length ∧
    (failingAt 2 start).FailsAt 2 ∧
    (∃ h, exec .radioReset (failingAt 2 start).healed = .next h ∧
      3 = (h.trace.filter TraceEvent.isSpi).length) ∧
    (failingAt 1 requested).FailsAt 1 ∧
    (∃ h, exec .beaconService (failingAt 1 requested).healed = .next h ∧
      h.trace = start.trace ++ [.spi .wr 0x08#7 [0x00#8] [], .spi .wr 0x07#7 [0x01#8] []] ++
        [.result .ok 5#16]) :=
  ⟨⟨by decide, by decide, _, rfl, rfl⟩, by decide, by decide, by decide, ⟨by decide, by decide, _, rfl, rfl⟩,
    ⟨_, rfl, by decide⟩, by decide, ⟨by decide, by decide, _, rfl, rfl⟩, ⟨_, rfl, by decide⟩,
    ⟨by decide, by decide, _, rfl, rfl⟩, ⟨_, rfl, by decide⟩⟩

/-- `start` with `spi_fault` set and a register write asked for. -/
def busDead : State := { commanded 0x110780#24 with spiFault := true }

theorem witness_SpiFaultIsForEver :
    busDead.NoReset ∧ (∃ t, step busDead = .next t) ∧ busDead.spiFault = true :=
  ⟨by decide, ⟨_, rfl⟩, by decide⟩

theorem witness_SpiFaultRefusesTheBus :
    busDead.spiFault = true ∧ 1 ≤ (1#8).toNat ∧ (64#8).toNat ≤ 64 ∧ 64 < (65#8).toNat ∧
    [busDead.params.profile0, busDead.params.profile1, busDead.params.profile2][(0#8).toNat]? = some [] ∧
    [busDead.params.profile0, busDead.params.profile1, busDead.params.profile2][(1#8).toNat]? =
      some [(0x6E#7, 0x27#8), (0x6F#7, 0x52#8)] ∧
    Mode.ofOperand 1#8 = some .tone ∧ Mode.tone.setsXmitDirect = true ∧ busDead.beacon.mode = .off ∧
    ({ busDead with service := .apply 10#8 } : State).env.turns = [] ∧
    ({ busDead with service := .apply 10#8 } : State).nextInterrupt = none ∧
    ({ busDead with service := .apply 10#8 } : State).mainRb = .none ∧ 10#8 ∈ [5#8, 7#8, 8#8, 10#8] ∧
    ({ busDead with rb1 := ⟨[(0, 8#8)], 1, 0⟩ }).params.serviceReading = .oneStep ∧
    ({ busDead with rb1 := ⟨[(0, 8#8)], 1, 0⟩ }).spiFault = true ∧
    ({ busDead with rb1 := ⟨[(0, 8#8)], 1, 0⟩ }).isEmpty .rb1 = false ∧
    ({ busDead with rb1 := ⟨[(0, 8#8)], 1, 0⟩ }).ringByte .rb1 0 ∈ [5#8, 7#8, 8#8, 10#8] := by
  decide

theorem witness_RadioResetSequence :
    (answering start [0x99#8, 0x00#8, 0x03#8]).BusHealthy 3 ∧
    (answering start [0x99#8, 0x00#8, 0x03#8]).env.answers =
      ⟨[0x99#8], false⟩ :: ⟨[0x00#8], false⟩ :: ⟨[0x03#8], false⟩ :: [] := by decide

theorem witness_RadioCheckIdSequence :
    (answering start [0x08#8, 0x06#8]).BusHealthy 2 ∧
    (answering start [0x08#8, 0x06#8]).env.answers = ⟨[0x08#8], false⟩ :: ⟨[0x06#8], false⟩ :: [] := by decide

theorem witness_ApplyConfigWritesTheProfile :
    [start.params.profile0, start.params.profile1, start.params.profile2][(0#8).toNat]? = some [] ∧
    [start.params.profile0, start.params.profile1, start.params.profile2][(1#8).toNat]? =
      some [(0x6E#7, 0x27#8), (0x6F#7, 0x52#8)] ∧
    [start.params.profile0, start.params.profile1, start.params.profile2][(2#8).toNat]? = some [] ∧
    start.params.profile1.length < 2 ^ 16 ∧ start.BusHealthy 0 ∧ start.BusHealthy 2 ∧ 3 ≤ (3#8).toNat := by decide

theorem witness_SetStateMakesTheTransition :
    RadioState.ofByte 5#8 = some .ready ∧ RadioState.ready.target = some .ready ∧
    RadioState.ofByte 7#8 = some .xmitDirect ∧ RadioState.xmitDirect.target = some .xmitDirect ∧
    RadioState.ofByte 8#8 = some .xmitPacket ∧ RadioState.xmitPacket.target = some .xmitPacket ∧
    RadioState.ofByte 10#8 = some .recvPacket ∧ RadioState.recvPacket.target = some .recvPacket ∧
    start.BusHealthy (transitionList start.params start.radioState .xmitPacket).length := by decide

theorem witness_FailedSetStateKeepsRadioState :
    9#8 ∈ [0#8, 1#8, 2#8, 3#8, 4#8, 6#8, 9#8] ∧ 11 ≤ (11#8).toNat ∧
    RadioState.ofByte 10#8 = some .recvPacket ∧ RadioState.recvPacket.target = some .recvPacket ∧
    (failing start).FailsAt 0 ∧ (failingAt 1 start).FailsAt 1 ∧
    1 + 1 = (transitionList start.params start.radioState .recvPacket).length ∧
    ∃ t, exec (.radioSetState 7#8) (failing start) = .next t ∧
      t.trace.getLast? = some (.result .transportError 0#16) :=
  ⟨by decide, by decide, by decide, by decide, ⟨by decide, by decide, _, rfl, rfl⟩,
    ⟨by decide, by decide, _, rfl, rfl⟩, by decide, ⟨_, rfl, by decide⟩⟩

theorem witness_TransitionsDoNotOverlap :
    vectorParams.legal = true ∧ vectorParams.radio.regOpmode1 ≠ vectorParams.radio.regOpmode2 ∧
    RadioState.xmitPacket.isTxRx = true ∧ RadioState.ofByte 7#8 = some .xmitDirect ∧
    RadioState.xmitDirect.target = some .xmitDirect ∧
    (∃ t, exec (.radioSetState 7#8) { start with radioState := .xmitPacket } = .next t ∧ t.spiFault = false) ∧
    ∃ t, exec (.radioSetState 7#8) (failingAt 1 { start with radioState := .xmitPacket }) = .next t ∧
      t.spiFault = true :=
  ⟨by decide, by decide, by decide, by decide, by decide, ⟨_, rfl, by decide⟩, ⟨_, rfl, by decide⟩⟩

theorem witness_SetStateReadyFromEveryState :
    ({ start with radioState := .xmitPacket } : State).BusHealthy 3 := by decide

theorem witness_RadioStateReachable :
    (commanded 0x230008#24).RadioInv ∧ (commanded 0x230008#24).NoReset ∧
    ∃ t, step (commanded 0x230008#24) = .next t ∧ t.radioState ≠ (commanded 0x230008#24).radioState :=
  ⟨by decide, by decide, ⟨_, rfl, by decide⟩⟩

theorem witness_LoadPacketSequence : (64#8).toNat ≤ 64 ∧ (0#8).toNat ≤ 64 ∧ start.BusHealthy 8 := by decide

theorem witness_MorseStartArmsTheGenerator :
    (256#16).toNat ≤ start.params.msgSize ∧ start.params.msgSize < (257#16).toNat := by decide

theorem witness_MorseTickKeysOneUnit :
    (morseAt 0xFF#8 0x80#8 1#16 3#16).morse.active = true ∧
    exhausted (morseAt 0xFF#8 0x80#8 1#16 3#16).morse.keyShift = false ∧
    (morseAt 0x80#8 0xFF#8 1#16 3#16).morse.active = true ∧
    exhausted (morseAt 0x80#8 0xFF#8 1#16 3#16).morse.keyShift = true ∧
    exhausted (morseAt 0x80#8 0xFF#8 1#16 3#16).morse.symbolShift = false := by decide

theorem witness_MorseTickFetchesTheNextCharacter :
    (∀ k : Fin 3,
      (morseAt 0x00#8 0xFF#8 (BitVec.ofNat 16 k) 3#16).morse.active = true ∧
      exhausted (morseAt 0x00#8 0xFF#8 (BitVec.ofNat 16 k) 3#16).morse.keyShift = true ∧
      exhausted (morseAt 0x00#8 0xFF#8 (BitVec.ofNat 16 k) 3#16).morse.symbolShift = true ∧
      (morseAt 0x00#8 0xFF#8 (BitVec.ofNat 16 k) 3#16).morse.messageCursor ≠
        (morseAt 0x00#8 0xFF#8 (BitVec.ofNat 16 k) 3#16).morse.msgLen) ∧
    (morseAt 0x00#8 0xFF#8 0#16 3#16).readByte .msg 0 = 0x45#8 ∧
    morseLookup start.params.morseTable 0x45#8 = .code 0x7F#8 ∧
    (morseAt 0x00#8 0xFF#8 1#16 3#16).readByte .msg 1 = 0x20#8 ∧
    morseLookup start.params.morseTable 0x20#8 = .wordSpace ∧
    (morseAt 0x00#8 0xFF#8 2#16 3#16).readByte .msg 2 = 0x65#8 ∧
    morseLookup start.params.morseTable 0x65#8 = .unmapped ∧ start.params.morseUnmapped = .error ∧
    (lenient start).params.morseUnmapped = .wordSpace := by decide

theorem witness_MorseDoneOnceThenIdle :
    (morseAt 0xFF#8 0xFF#8 3#16 3#16).morse.active = true ∧
    exhausted (morseAt 0xFF#8 0xFF#8 3#16 3#16).morse.keyShift = true ∧
    exhausted (morseAt 0xFF#8 0xFF#8 3#16 3#16).morse.symbolShift = true ∧
    (morseAt 0xFF#8 0xFF#8 3#16 3#16).morse.messageCursor =
      (morseAt 0xFF#8 0xFF#8 3#16 3#16).morse.msgLen ∧
    start.morse.active = false := by decide

theorem witness_MorseLetterIsKeyedExactly :
    ([false] : List Bool).length ≤ 7 ∧ ([true, false, true, false, true, true, true] : List Bool).length ≤ 7 ∧
    (⟨0xAE#8, 0x00#8, 1#16, 1#16, true⟩ : Morse).symbolShift =
      letterCode [true, false, true, false, true, true, true] ∧
    (⟨0xAE#8, 0x00#8, 1#16, 1#16, true⟩ : Morse).active = true ∧
    exhausted (⟨0xAE#8, 0x00#8, 1#16, 1#16, true⟩ : Morse).keyShift = true ∧
    exhausted (⟨0xFF#8, 0xFF#8, 0#16, 1#16, true⟩ : Morse).symbolShift = true ∧
    exhausted (⟨0xFF#8, 0xFF#8, 0#16, 1#16, true⟩ : Morse).keyShift = true ∧
    (⟨0xFF#8, 0xFF#8, 0#16, 1#16, true⟩ : Morse).messageCursor ≠
      (⟨0xFF#8, 0xFF#8, 0#16, 1#16, true⟩ : Morse).msgLen ∧
    morseLookup vectorParams.morseTable 0x45#8 = .code (letterCode [false]) ∧
    morseLookup vectorParams.morseTable 0x21#8 = .code (letterCode [true, false, true, false, true, true]) :=
  by decide

theorem witness_MorseCursorInvariantKept :
    (asking (morseAt 0x00#8 0xFF#8 2#16 3#16) (.command 0x310000#24)).MorseInv ∧
    ∃ t, step (asking (morseAt 0x00#8 0xFF#8 2#16 3#16) (.command 0x310000#24)) = .next t :=
  ⟨by decide, ⟨_, rfl⟩⟩

theorem witness_PnInitAndTick :
    (15#16 ≠ 0#16 ∧ (15#16).toNat < 2 ^ start.params.pnN) ∧ 2 ^ start.params.pnN ≤ (16#16).toNat ∧
    pnNext start.params.pnN start.params.pnGpoly 1 ≠ 8 ∧
    pnNext start.params.pnN start.params.pnGpoly 3 = 8 ∧ start.pn.complete = true ∧
    ({ start with pn := ⟨3, 8, 0#16, false⟩ } : State).pn.complete = false := by decide

theorem witness_PnNextIsAPermutation :
    1 ≤ 1 ∧ (0 < 2 ^ 1 ∧ 0 % 2 = 0) ∧ (1 < 2 ^ 1 ∧ 1 % 2 = 1) ∧ (1 : Nat) ≠ 0 ∧ pnNext 3 0xB 7 = pnNext 3 0xB 7 ∧
    (∀ k, 1 ≤ k → k < 3 → Nat.testBit 0x2 k = Nat.testBit 0xB k) := by
  refine ⟨by decide, by decide, by decide, by decide, rfl, fun k h1 h2 => ?_⟩
  interval_cases k <;> rfl

theorem witness_PnPeriodIsMaximal :
    12 ∈ [3, 4, 5, 6, 7, 8, 10, 12] ∧ 0 < 4095 ∧ 4095 < 2 ^ 12 ∧ 3 ∈ [3, 4, 5, 6, 7, 8, 10, 12] ∧
    0 < 1 ∧ 1 < 2 ^ 3 := by decide

/-- The PN generator one call before its period ends. -/
def pnAtWork : State := { commanded 0x410000#24 with pn := ⟨3, 8, 0#16, false⟩ }

theorem witness_PnInvariantKept : pnAtWork.PnInv ∧ ∃ t, step pnAtWork = .next t :=
  ⟨⟨by decide, by decide, by decide, by decide⟩, ⟨_, rfl⟩⟩

theorem witness_BeaconStartArmsTheMode :
    Mode.ofOperand 1#8 = some .tone ∧ Mode.ofOperand 7#8 = some .packet ∧ start.beacon.mode = .off ∧
    start.BusHealthy (transitionList start.params start.radioState .xmitDirect).length ∧
    start.env.timerReads = 0x1000 :: 0x1000 :: [0x1000] ∧ hasSource start.beacon.ie .cmpB = false := by decide

theorem witness_BeaconStartRefusals :
    7 < (8#8).toNat ∧ (7#8 ≠ 0#8 ∧ (7#8).toNat ≤ 7) ∧
    (running start .tone).beacon.mode ≠ .off := by decide

theorem witness_BeaconStopTellsTheRadioThenMasks :
    (running start .morseDirect).BusHealthy
      (transitionList start.params (running start .morseDirect).radioState .ready).length ∧
    (failing (running start .morseDirect)).FailsAt 0 ∧ (failingAt 1 (running start .morseDirect)).FailsAt 1 ∧
    1 + 1 = (transitionList start.params (running start .morseDirect).radioState .ready).length ∧
    ({ running start .morseDirect with spiFault := true } : State).spiFault = true :=
  ⟨by decide, ⟨by decide, by decide, _, rfl, rfl⟩, ⟨by decide, by decide, _, rfl, rfl⟩, by decide, by decide⟩

theorem witness_BeaconServiceServesOneRequest :
    start.isEmpty .rb1 = true ∧ ringFull.isEmpty .rb1 = false ∧
    ringFull.params.serviceReading = .oneStep ∧ (inMicroSteps ringFull).params.serviceReading = .microSteps ∧
    (inMicroSteps ringFull).isEmpty .rb1 = false ∧ (asking ringFull (.command 0x520000#24)).MainFree ∧
    (asking ringFull (.command 0x520000#24)).env.requests = [.command (encode .beaconService)] ∧
    (asking (inMicroSteps ringFull) (.command 0x520000#24)).MainFree ∧
    (asking (inMicroSteps ringFull) (.command 0x520000#24)).env.requests = [.command (encode .beaconService)] ∧
    next (step (asking requested (.command 0x520000#24))) (fun t => t.service = .idle) = true ∧
    (start.env.turns = [] ∧ start.nextInterrupt = none ∧ start.mainRb = .none) ∧
    ({ start with service := .apply 10#8 } : State).service = .apply 10#8 := by decide

theorem witness_BeaconStatusSelectors : 8 < (9#8).toNat := by decide

theorem witness_ArrivalLatchesThePendingBit :
    (facing (running start .tone) (.event .cmpB)).env.turns = [.event .cmpB] := by decide

theorem witness_DeliverableSourceIsServedFirst :
    irqOrderLegal start.params.irqOrder = true ∧ (pending (running start .pnDirect) .nirq).env.turns = [] ∧
    hasSource (pending (running start .pnDirect) .nirq).beacon.ip .nirq = true ∧
    hasSource (pending (running start .pnDirect) .nirq).beacon.ie .nirq = true := by decide

theorem witness_WallClockAndToneHandlers :
    (running start .tone).beacon.mode = .tone ∧
    ((running start .tone).beacon.toneCount + 1#16).toNat ≠ start.params.toneDiv ∧
    ((3#16 : Half) + 1#16).toNat = start.params.toneDiv ∧ start.beacon.mode ≠ .tone := by decide

/-- A PN packet beacon whose next chip is 0. -/
def pnTicking : State := { running start .pnPacket with pn := ⟨1, 8, 0#16, false⟩ }

theorem witness_CmpATickGivesOneOutputBit :
    (running start .morseDirect).beacon.mode.keysPin = true ∧
    (running start .morseDirect).beacon.mode.ticksOnA = true ∧
    CmpATick (running start .queueDirect) (.key false 0x01#8) (running start .queueDirect) ∧
    CmpATick pnTicking (.key false 0x00#8) { pnTicking with pn := { pnTicking.pn with reg := 9 } } ∧
    pnTicking.beacon.mode.keysQueue = true ∧ pnTicking.beacon.lastKey = false ∧
    CmpATick { pnTicking with pn := ⟨8, 8, 0#16, false⟩ } (.key true 0x00#8)
      { pnTicking with pn := ⟨4, 8, 0#16, false⟩ } ∧
    pnTicking.isFull .rb1 = false ∧
    CmpATick { running ringFull .pnPacket with pn := ⟨8, 8, 0#16, false⟩ } (.key true 0x00#8)
      { running ringFull .pnPacket with pn := ⟨4, 8, 0#16, false⟩ } ∧
    (running ringFull .pnPacket).isFull .rb1 = true ∧
    CmpATick (running start .morsePacket) .stop (running start .morsePacket) ∧
    CmpATick (failingAt 1 (running start .pnDirect)) .stop (failingAt 1 (running start .pnDirect)) ∧
    (failingAt 1 (running start .pnDirect)).FailsAt 1 ∧
    1 + 1 = (transitionList start.params start.radioState .ready).length ∧
    CmpATick { running start .pnDirect with spiFault := true } .stop
      { running start .pnDirect with spiFault := true } ∧
    (running start .morsePacket).BusHealthy (transitionList start.params start.radioState .ready).length ∧
    (running start .tone).beacon.mode.ticksOnA = false ∧
    (takeInterrupt .cmpA pnTicking).beacon.mode ≠ .off :=
  ⟨by decide, by decide, .queueEmpty (by decide) (by decide),
    .pnChip (.inr rfl) (by decide) _ 0x0000#16 rfl, by decide, by decide,
    .pnChip (.inr rfl) (by decide) _ 0x0001#16 rfl, by decide,
    .pnChip (.inr rfl) (by decide) _ 0x0001#16 rfl, by decide, .morseIdle (.inr rfl) (by decide),
    .pnComplete (.inl rfl) (by decide), ⟨by decide, by decide, _, rfl, rfl⟩, by decide,
    .pnComplete (.inl rfl) (by decide), by decide, by decide, by decide⟩

/-- `start` with the answers to the two status reads in store, and then more. -/
def statusAnswers (a0 : Byte) (f0 f1 : Bool) (l : List Answer) : State :=
  { start with env := { start.env with answers := ⟨[a0], f0⟩ :: ⟨[0x00#8], f1⟩ :: l } }

theorem witness_PacketSentReturnsToReady :
    (∀ f0 f1 : Bool, (statusAnswers 0x04#8 f0 f1 []).spiFault = false ∧
      (statusAnswers 0x04#8 f0 f1 []).env.answers = ⟨[0x04#8], f0⟩ :: ⟨[0x00#8], f1⟩ :: []) ∧
    busDead.spiFault = true ∧ 0x04#8 &&& start.params.radio.bitPksent ≠ 0#8 ∧
    0xFB#8 &&& start.params.radio.bitPksent = 0#8 ∧
    (∀ a ∈ ([⟨[], false⟩, ⟨[], true⟩] : List Answer).take 1, a.fails = false) ∧
    ([⟨[], false⟩, ⟨[], true⟩] : List Answer)[1]? = some ⟨[], true⟩ ∧
    1 + 1 = (transitionList start.params start.radioState .ready).length := by decide

theorem witness_OrchestratorInvariantKept :
    (pending (running start .pnDirect) .cmpA).EnableInv ∧ (pending (running start .pnDirect) .cmpA).TimerInv ∧
    (pending (running start .pnDirect) .cmpA).FlagsReserved ∧
    ∃ t, step (pending (running start .pnDirect) .cmpA) = .next t := ⟨by decide, by decide, by decide, ⟨_, rfl⟩⟩

theorem witness_FlagsAreStickyAndMainNeverWritesThem :
    (pending (running start .pnDirect) .cmpA).NoReset ∧
    (∃ t, step (pending (running start .pnDirect) .cmpA) = .next t) ∧
    ∃ t, exec .beaconStop (running start .pnDirect) = .next t := ⟨by decide, ⟨_, rfl⟩, ⟨_, rfl⟩⟩

theorem witness_CommandFrames :
    (∃ t, exec (.regBurstRead 0x7F#7 64#8) start = .next t) ∧ (∃ t, exec (.beaconStart 2#8) start = .next t) ∧
    (∃ t, exec .beaconService requested = .next t) ∧ requested.params.serviceReading = .oneStep ∧
    (∃ t, exec .beaconService (inMicroSteps requested) = .next t) ∧
    (inMicroSteps requested).params.serviceReading = .microSteps :=
  ⟨⟨_, rfl⟩, ⟨_, rfl⟩, ⟨_, rfl⟩, rfl, ⟨_, rfl⟩, rfl⟩

end Sys2Proof.Tests
end

section
/-! PROOFS. Which command word a step of NCB runs (R4, R69, R90). -/

namespace Sys2Proof.Machine

/-- With no deliverable source, Main acts (R292). -/
theorem afterInterrupts_of_none {s : State} (h : s.nextInterrupt = none) (main : State → Action) :
    afterInterrupts main s = main s := by
  simp only [afterInterrupts, h]

/-- A free Main with a command word next takes it from the port and runs it (R69, R90). -/
theorem mainAction_of_command {s : State} {w : Word} {rest : List Request} (hm : s.mainRb = .none)
    (hv : s.service = .idle) (hr : s.env.requests = .command w :: rest) :
    mainAction s = .run w s.dropRequest := by
  simp only [mainAction, mainMicroStep_none.mpr hm, hv, beginRequest, hr]

/-- In a `host` turn a command word is Main's to run as ever (R69). -/
theorem hostAction_of_command {s : State} {w : Word} {rest : List Request}
    (hr : s.env.requests = .command w :: rest) : hostAction s = mainAction s := by
  simp only [hostAction, hr]

/-- The word taken from the port, as a record update. -/
theorem dropRequest_of_requests {s : State} {r : Request} {rest : List Request}
    (hr : s.env.requests = r :: rest) :
    s.dropRequest = { s with env := { s.env with requests := rest } } := by
  simp only [State.dropRequest, State.setEnv, hr, List.tail_cons]

/-- Whoever of Main's two turns it is, a free Main runs the word on its port. -/
theorem afterInterrupts_of_command {s : State} {w : Word} {rest : List Request} {main : State → Action}
    (hmain : main = mainAction ∨ main = hostAction) (hi : s.nextInterrupt = none) (hm : s.mainRb = .none)
    (hv : s.service = .idle) (hr : s.env.requests = .command w :: rest) :
    afterInterrupts main s = .run w { s with env := { s.env with requests := rest } } := by
  rw [afterInterrupts_of_none hi, ← dropRequest_of_requests hr]
  rcases hmain with rfl | rfl
  · exact mainAction_of_command hm hv hr
  · exact (hostAction_of_command hr).trans (mainAction_of_command hm hv hr)

/-- With no turn written down NCB acts (log 8). -/
theorem nextAction_of_no_turns {s : State} (ht : s.env.turns = []) :
    nextAction s = afterInterrupts mainAction s := by
  simp only [nextAction, ht, ncbAction]

/-- In each of Main's two written-down turns NCB acts, with the turn taken (log 8). -/
theorem nextAction_of_turn {s : State} {x : Turn} {turns : List Turn} (hx : x = .ncb ∨ x = .host)
    (ht : s.env.turns = x :: turns) :
    ∃ main, (main = mainAction ∨ main = hostAction) ∧
      nextAction s = afterInterrupts main { s with env := { s.env with turns := turns } } := by
  have hdrop : s.dropTurn = { s with env := { s.env with turns := turns } } := by
    simp only [State.dropTurn, State.setEnv, ht, List.tail_cons]
  rw [← hdrop]
  rcases hx with rfl | rfl
  · exact ⟨mainAction, .inl rfl, by simp only [nextAction, ht, ncbAction]⟩
  · exact ⟨hostAction, .inr rfl, by simp only [nextAction, ht]⟩

/-- A word that decodes runs as its command (R90). -/
theorem step_of_run {s t : State} {w : Word} {i : Instr} (ha : nextAction s = .run w t)
    (hd : decode w = .ok i) : step s = exec i t := by
  simp only [step_eq, ha, afterAction, runWord, hd]

/-- Settles O5: whether Main's turn is written down or not, the action is to run the word, and a word that
decodes runs as its command. -/
theorem stepRunsTheDecodedCommand : Obligations.StepRunsTheDecodedCommand := by
  intro s w rest i hi hm hv hr hd
  refine ⟨fun ht => step_of_run ?_ hd, fun x turns hx ht => step_of_run ?_ hd⟩
  · rw [nextAction_of_no_turns ht]
    exact afterInterrupts_of_command (.inl rfl) hi hm hv hr
  · obtain ⟨main, hmain, ha⟩ := nextAction_of_turn hx ht
    rw [ha]
    exact afterInterrupts_of_command hmain hi hm hv hr

end Sys2Proof.Machine
end

section
/-! PROOFS. Without block reset a step only extends the trace, and the configuration and the epoch stay
(R16; logs 1 and 16). -/

namespace Sys2Proof.Machine

/-- `t` is a later state of the same run as `s`: same configuration, no block reset between, and a trace
that extends that of `s` (R16). -/
structure Continues (s t : State) : Prop where
  params : t.params = s.params
  epoch : t.epoch = s.epoch
  extends_trace : s.trace <+: t.trace

/-- An update outside the configuration, the epoch and the trace. -/
theorem Continues.of_same {s t : State} (hp : t.params = s.params) (he : t.epoch = s.epoch)
    (ht : t.trace = s.trace) : Continues s t := ⟨hp, he, ht ▸ List.prefix_refl _⟩

theorem Continues.refl (s : State) : Continues s s := .of_same rfl rfl rfl

theorem Continues.trans {s t u : State} (h : Continues s t) (k : Continues t u) : Continues s u :=
  ⟨k.params.trans h.params, k.epoch.trans h.epoch, h.extends_trace.trans k.extends_trace⟩

theorem BusOnly.continues {s t : State} (h : BusOnly s t) : Continues s t :=
  ⟨by rw [h.frame], by rw [h.frame], h.extends_trace⟩

theorem Quiet.continues {s t : State} (h : Quiet s t) : Continues s t :=
  ⟨h.params, by rw [h.frame], h.extends_trace⟩

theorem Started.continues {m : Mode} {s t : State} (h : Started m s t) : Continues s t :=
  ⟨by rw [h.frame], by rw [h.frame], h.extends_trace⟩

/-- A `Result` event is an extension of the trace (R14, R16). -/
theorem Continues.finish {s t : State} (h : Continues s t) (r : Reply) : Continues s (t.finish r) :=
  h.trans ⟨rfl, rfl, List.prefix_append _ _⟩

/-- Writing a ring leaves the configuration, the epoch and the trace. -/
theorem setRing_continues (i : RingId) (r : Ring) (s : State) : Continues s (s.setRing i r) :=
  .of_same (by simp) (by simp) (by simp)

theorem ringGet_continues {i : RingId} {s t : State} {v : Byte} (h : ringGet i s = some (v, t)) :
    Continues s t := by
  rcases ringGet_cases i s with ⟨_, e⟩ | ⟨_, e⟩ <;> rw [e] at h <;> cases h
  exact setRing_continues i _ s

theorem setState_continues (b : Byte) (s : State) : Continues s (setState b s).2 := by
  rcases setState_cases b s with ⟨_, e⟩ | ⟨_, _, _, e⟩ | ⟨_, t, _, _, _, e⟩ <;> rw [e]
  · exact .refl s
  · exact .refl s
  · exact (enterTarget_quiet t s).continues

theorem startMode_continues (m : Mode) (s : State) : Continues s (startMode m s).2 := by
  rcases startMode_cases m s with ⟨u, hu, _, e⟩ | ⟨u, hu, _, _, e⟩ <;> rw [e]
  · exact hu.continues
  · exact hu.continues.trans (started m u).continues

theorem setMorse_continues (m : Morse) (s : State) : Continues s (s.setMorse m) := .of_same rfl rfl rfl

theorem setPn_continues (p : Pn) (s : State) : Continues s (s.setPn p) := .of_same rfl rfl rfl

/-- No command's effect shortens the trace. -/
theorem Effect.continues {s t : State} (h : Effect s t) : Continues s t := by
  cases h with
  | ends r => exact (Continues.refl s).finish r
  | putInFlight i b _ => exact .of_same rfl rfl rfl
  | getInFlight i _ => exact .of_same rfl rfl rfl
  | serviceInFlight _ => exact .of_same rfl rfl rfl
  | serviced v u hg => exact ((ringGet_continues hg).trans (setState_continues v u)).finish _
  | bus u r hu => exact hu.continues.finish r
  | burstRead u r bytes hu _ =>
    have hx : Continues u (u.setXfer (Memory.writeAll u.xfer 0 bytes)) := .of_same rfl rfl rfl
    exact (hu.continues.trans hx).finish r
  | transition g r => exact (enterTarget_quiet g s).continues.finish r
  | morseStart len r _ => exact (setMorse_continues _ s).finish r
  | morseTick r => exact (setMorse_continues _ s).finish r
  | pnInit n r _ _ => exact (setPn_continues _ s).finish r
  | pnTick r => exact (setPn_continues _ s).finish r
  | start m r _ _ => exact (startMode_continues m s).finish r
  | stop r => exact (stopAction_quiet s).continues.finish r

theorem HandlerStep.continues {s t : State} (h : HandlerStep s t) : Continues s t := by
  obtain ⟨r0, r1, m, p, _, _, _, _, q⟩ := h
  exact ⟨q.continues.params, q.continues.epoch, q.continues.extends_trace⟩

/-- The end of a get in flight adds at most its `Result` (R124, R260). -/
theorem mainGetDone_continues (v : Byte) (s : State) : Continues s (mainGetDone v s) := by
  unfold mainGetDone
  split
  · exact (Continues.refl s).finish _
  · exact .of_same rfl rfl rfl
  · exact (Continues.refl s).finish _

/-- Writing `main_rb` leaves the configuration, the epoch and the trace. -/
theorem Continues.setMainRb {s t : State} (h : Continues s t) (m : MainRb) :
    Continues s (t.setMainRb m) := ⟨h.params, h.epoch, h.extends_trace⟩

theorem mainMicroStep_continues {s t : State} (h : mainMicroStep s = some t) : Continues s t := by
  unfold mainMicroStep at h
  split at h <;> cases h
  · exact (setRing_continues _ _ s).setMainRb _
  · exact ((setRing_continues _ _ s).setMainRb _).finish _
  · exact (Continues.refl s).setMainRb _
  · exact ((setRing_continues _ _ s).setMainRb _).trans (mainGetDone_continues _ _)

/-- A host write touches only the memory it writes (R40). -/
theorem hostWrite_continues (sp : HostSpace) (k : Nat) (v : Byte) (s : State) :
    Continues s (hostWrite sp k v s) := by
  cases sp <;> exact .of_same rfl rfl rfl

theorem dropRequest_continues (s : State) : Continues s s.dropRequest := .of_same rfl rfl rfl

theorem dropTurn_continues (s : State) : Continues s s.dropTurn := .of_same rfl rfl rfl

theorem arrive_continues (x : Source) (s : State) : Continues s (s.arrive x) := .of_same rfl rfl rfl

theorem NcbStep.continues {s t : State} (h : NcbStep s t) : Continues s t := by
  cases h with
  | interrupt x _ => exact (takeInterrupt_step x s).continues
  | micro _ _ hm => exact mainMicroStep_continues hm
  | service b _ _ _ =>
    have hi : Continues s (s.setService .idle) := .of_same rfl rfl rfl
    exact (hi.trans (setState_continues b _)).finish _
  | wait _ _ _ => exact .refl s
  | hostWrite sp k v _ _ => exact (dropRequest_continues s).trans (hostWrite_continues sp k v _)
  | hostRead _ => exact dropRequest_continues s
  | command i _ _ _ _ he _ => exact (dropRequest_continues s).trans he.continues
  | illegal _ _ => exact (dropRequest_continues s).finish _

/-- Every step either is block reset, which keeps the configuration (R43, R330), or continues the run. -/
theorem step_continues_or_resets {s t : State} (h : step s = .next t) :
    Continues s t ∨ (¬ s.NoReset ∧ t.params = s.params) := by
  cases step_cases h with
  | arrival x => exact .inl ((dropTurn_continues s).trans (arrive_continues x _))
  | blockReset hr => exact .inr ⟨not_not_intro hr, rfl⟩
  | turn _ hn => exact .inl ((dropTurn_continues s).trans hn.continues)
  | free _ hn => exact .inl hn.continues

/-- Settles O8, from the cases of a step. -/
theorem traceOnlyGrowsAndConfigurationStays : Obligations.TraceOnlyGrowsAndConfigurationStays := by
  intro s t h
  rcases step_continues_or_resets h with hc | ⟨hreset, hp⟩
  · exact ⟨hc.params, fun _ => ⟨hc.epoch, hc.extends_trace⟩⟩
  · exact ⟨hp, fun hno => absurd hno hreset⟩

end Sys2Proof.Machine
end

section
/-! PROOFS. A step taken apart: the operations outside the rings, the generators and the memories (`Outer`), and the
one part beside them that a step moves (`PartMove`). Every invariant of one part is then kept for two reasons:
the outer operations leave the part alone, and each way of moving it keeps the invariant. -/

namespace Sys2Proof.Machine

/-- The orchestrator's registers agree with its mode and lie in their ranges (R36, R37, R251). -/
def State.BeaconInv (s : State) : Prop := s.EnableInv ∧ s.TimerInv ∧ s.FlagsReserved

/-- What a step does outside the rings, the generators, the memories and the ring-buffer command in flight: the
flags and `spi_fault` are sticky, and a dead bus stays silent. -/
structure Outer (s t : State) : Prop where
  frame : t = { s with
    radioState := t.radioState
    spiFault := t.spiFault
    beacon := t.beacon
    service := t.service
    trace := t.trace
    env := t.env }
  sticky : s.spiFault = true → t.spiFault = true
  silent : s.spiFault = true → t.spiEvents = s.spiEvents
  flags : ∃ f : Byte, t.beacon.flags = s.beacon.flags ||| f
  beaconInv : s.BeaconInv → t.BeaconInv

theorem Outer.trans {s t u : State} (h : Outer s t) (k : Outer t u) : Outer s u where
  frame := by
    have hk := k.frame
    rw [h.frame] at hk
    exact hk
  sticky := k.sticky ∘ h.sticky
  silent := fun hs => (k.silent (h.sticky hs)).trans (h.silent hs)
  flags := by
    obtain ⟨f, hf⟩ := h.flags
    obtain ⟨g, hg⟩ := k.flags
    exact ⟨f ||| g, by rw [hg, hf, BitVec.or_assoc]⟩
  beaconInv := k.beaconInv ∘ h.beaconInv

/-- Events that are no transaction, and anything in the inputs in store and the place in BEACON_SERVICE. -/
theorem outer_of_sameRegisters {s t : State} (es : List TraceEvent) (hes : ∀ e ∈ es, e.isSpi = false)
    (ht : t = { s with service := t.service, trace := s.trace ++ es, env := t.env }) : Outer s t := by
  rw [ht]
  exact {
    frame := rfl
    sticky := id
    silent := fun _ => by
      have hnil : es.filter TraceEvent.isSpi = [] :=
        List.filter_eq_nil_iff.mpr fun e he => by simp [hes e he]
      simp only [State.spiEvents, List.filter_append, hnil, List.append_nil]
    flags := ⟨0#8, by simp⟩
    beaconInv := id }

theorem Outer.refl (s : State) : Outer s s := outer_of_sameRegisters [] (by simp) (by simp)

theorem finish_outer (s : State) (r : Reply) : Outer s (s.finish r) :=
  outer_of_sameRegisters [.result r.status r.value] (by simp [TraceEvent.isSpi]) rfl

theorem Outer.finish {s t : State} (h : Outer s t) (r : Reply) : Outer s (t.finish r) :=
  h.trans (finish_outer t r)

theorem setEnv_outer (s : State) (e : Env) : Outer s (s.setEnv e) :=
  outer_of_sameRegisters [] (by simp) (by simp [State.setEnv])

theorem setService_outer (s : State) (v : Service) : Outer s (s.setService v) :=
  outer_of_sameRegisters [] (by simp) (by simp [State.setService])

/-- The mask of the stop action leaves channel B alone enabled (R256). -/
theorem hasSource_stop_mask (r : BitVec 4) (x : Source) :
    hasSource (r &&& 0b0010#4) x = (hasSource r x && decide (x = .cmpB)) := by
  revert r
  cases x <;> decide

/-- More flags raised keep the reserved bits 0 when the raised ones do (R37). -/
theorem reserved_or {f g : Byte} (hf : f &&& 0xE0#8 = 0x00#8) (hg : g &&& 0xE0#8 = 0x00#8) :
    (f ||| g) &&& 0xE0#8 = 0x00#8 := by
  rw [BitVec.and_comm, BitVec.and_or_distrib_left, BitVec.and_comm, hf, BitVec.and_comm, hg]
  rfl

theorem Quiet.beaconInv {s t : State} (q : Quiet s t) (h : s.BeaconInv) : t.BeaconInv := by
  obtain ⟨⟨hA, hT, hN, hB⟩, ⟨hdiv, hccrA, hccrB, htone⟩, hflags⟩ := h
  refine ⟨?_, ⟨?_, ?_, ?_, ?_⟩, ?_⟩
  · rcases q.mode with ⟨hm, hie⟩ | ⟨hm, hie⟩
    · rw [State.EnableInv, hm, hie]
      exact ⟨hA, hT, hN, hB⟩
    · rw [State.EnableInv, hm, hie]
      simp [hasSource_stop_mask, Mode.ticksOnA]
  · rwa [q.params]
  · rw [q.params]
    exact q.ccrA.elim (fun e => e ▸ hccrA) id
  · rw [q.params]
    exact q.ccrB.elim (fun e => e ▸ hccrB) id
  · rw [q.params]
    exact q.tone htone
  · obtain ⟨f, hf, hres⟩ := q.flags
    rw [State.FlagsReserved, hf]
    exact reserved_or hflags hres

theorem Quiet.outer {s t : State} (q : Quiet s t) : Outer s t where
  frame := by
    have hservice : t.service = s.service := by rw [q.frame]
    have henv : t.env = { s.env with answers := t.env.answers } := by rw [q.frame]
    rw [hservice, henv]
    exact q.frame
  sticky := q.sticky
  silent := q.silent
  flags := q.flags.imp fun _ hf => hf.1
  beaconInv := q.beaconInv

theorem BusOnly.outer {s t : State} (h : BusOnly s t) : Outer s t := h.quiet.outer

/-- Starting the beacon from mode Off sets the enables its mode asks for (R251, R252). -/
theorem Started.beaconInv {m : Mode} {s t : State} (k : Started m s t) (hoff : s.beacon.mode = .off)
    (hm : m ≠ .off) (h : s.BeaconInv) : t.BeaconInv := by
  obtain ⟨⟨hA, hT, _, _⟩, ⟨hdiv, hccrA, hccrB, _⟩, hflags⟩ := h
  have hp : t.params = s.params := by rw [k.frame]
  rw [hoff] at hA hT
  refine ⟨⟨?_, ?_, ?_, fun _ => k.cmpB⟩, ⟨?_, ?_, ?_, ?_⟩, ?_⟩
  · rw [k.cmpA, k.mode, hA]
    simp [Mode.ticksOnA]
  · rw [k.txclk, k.mode, hT]
    simp
  · rw [k.nirq, k.mode]
    simp [hm]
  · rwa [hp]
  · rw [hp]
    exact k.ccrA.elim (fun e => e ▸ hccrA) id
  · rw [hp]
    exact k.ccrB.elim (fun e => e ▸ hccrB) id
  · rw [k.tone, hp]
    exact hdiv
  · rwa [State.FlagsReserved, k.flags]

theorem Started.outer {m : Mode} {s t : State} (k : Started m s t) (hoff : s.beacon.mode = .off)
    (hm : m ≠ .off) : Outer s t where
  frame := by
    have hradio : t.radioState = s.radioState := by rw [k.frame]
    have hspi : t.spiFault = s.spiFault := by rw [k.frame]
    have hservice : t.service = s.service := by rw [k.frame]
    have henv : t.env = { s.env with timerReads := t.env.timerReads } := by rw [k.frame]
    rw [hradio, hspi, hservice, henv]
    exact k.frame
  sticky := fun hs => by rw [k.frame]; exact hs
  silent := fun _ => k.silent
  flags := ⟨0#8, by rw [k.flags]; simp⟩
  beaconInv := k.beaconInv hoff hm

theorem startMode_outer {m : Mode} {s : State} (hoff : s.beacon.mode = .off) (hm : m ≠ .off) :
    Outer s (startMode m s).2 := by
  rcases startMode_cases m s with ⟨u, hu, _, e⟩ | ⟨u, hu, hb, _, e⟩ <;> rw [e]
  · exact hu.outer
  · exact hu.outer.trans ((started m u).outer (hb ▸ hoff) hm)

theorem setState_outer (b : Byte) (s : State) : Outer s (setState b s).2 := by
  rcases setState_cases b s with ⟨_, e⟩ | ⟨_, _, _, e⟩ | ⟨_, t, _, _, _, e⟩ <;> rw [e]
  · exact .refl s
  · exact .refl s
  · exact (enterTarget_quiet t s).outer

/-- An arrival may raise `tick_overrun`, and it touches no register but the flags and the pending bits (R291). -/
theorem arrive_outer (x : Source) (s : State) : Outer s (s.arrive x) := by
  have hstay : (s.beacon.arrive x).mode = s.beacon.mode ∧ (s.beacon.arrive x).ie = s.beacon.ie ∧
      (s.beacon.arrive x).ccrA = s.beacon.ccrA ∧ (s.beacon.arrive x).ccrB = s.beacon.ccrB ∧
      (s.beacon.arrive x).toneCount = s.beacon.toneCount := by
    unfold Beacon.arrive
    split <;> exact ⟨rfl, rfl, rfl, rfl, rfl⟩
  obtain ⟨hmode, hie, hccrA, hccrB, htone⟩ := hstay
  refine Quiet.outer (quiet_of_beacon (s.beacon.arrive x) [] (by simp [State.arrive, State.setBeacon]) (by simp)
    (.inl ⟨hmode, hie⟩) (.inl hccrA) (.inl hccrB) (htone ▸ id) ?_)
  unfold Beacon.arrive
  split
  · exact ⟨flagTickOverrun, rfl, by decide⟩
  · exact ⟨0#8, by simp, by decide⟩

/-! ## The part a step moves -/

/-- How the command of Main that uses the ring buffers moves: `RingMove s i r m` says that ring buffer `i` becomes `r`
and the command in flight `m` (R122, R124, R131, R260). -/
inductive RingMove (s : State) : RingId → Ring → MainRb → Prop
  /-- P1. -/
  | putChecked (i : RingId) (b : Byte) (h : s.isFull i = false) :
      RingMove s i (s.ring i) (.put i (s.ring i).head b .checked)
  /-- G1. -/
  | getChecked (i : RingId) (h : s.isEmpty i = false) :
      RingMove s i (s.ring i) (.get i (s.ring i).tail .checked)
  /-- P2. -/
  | stored (i : RingId) (h : Nat) (b : Byte) (hm : s.mainRb = .put i h b .checked) :
      RingMove s i { s.ring i with buf := Memory.write (s.ring i).buf (slot (s.params.rbCap i) h) b }
        (.put i h b .stored)
  /-- P3. -/
  | headPublished (i : RingId) (h : Nat) (b : Byte) (hm : s.mainRb = .put i h b .stored) :
      RingMove s i { s.ring i with head := addW s.params.rbW h 1 } .none
  /-- G2. -/
  | loaded (i : RingId) (t : Nat) (v : Byte) (hm : s.mainRb = .get i t .checked) :
      RingMove s i (s.ring i) (.get i t (.loaded v))
  /-- G3. -/
  | tailPublished (i : RingId) (t : Nat) (v : Byte) (hm : s.mainRb = .get i t (.loaded v)) :
      RingMove s i { s.ring i with tail := addW s.params.rbW t 1 } .none
  /-- The get of a BEACON_SERVICE of one step. -/
  | popped (hm : s.mainRb = .none) (h : s.isEmpty .rb1 = false) :
      RingMove s .rb1 (s.rb1.popped s.params) .none

/-- The one part outside `Outer` that a step moves, or none. -/
inductive PartMove (s : State) : State → Prop
  | none : PartMove s s
  /-- `MORSE_START` (R203). -/
  | morseStart (len : Half) (h : len.toNat ≤ s.params.msgSize) :
      PartMove s (s.setMorse ⟨0x00#8, 0x00#8, 0#16, len, true⟩)
  /-- `MORSE_TICK` (R205). -/
  | morseTick : PartMove s s.morseStep.2
  /-- `PN_INIT` (R235). -/
  | pnInit (n : Nat) (h : n ≠ 0) (hn : n < 2 ^ s.params.pnN) : PartMove s (s.setPn ⟨n, n, 0#16, false⟩)
  /-- `PN_TICK` (R237). -/
  | pnTick : PartMove s s.pnStep.2
  /-- A host write to MSG (R40). -/
  | msg (k : Nat) (v : Byte) (h : k < s.params.msgSize) : PartMove s (s.setMsg (Memory.write s.msg k v))
  /-- A host write to XFER or a burst read (R40, R150). -/
  | xfer (k : Nat) (vs : List Byte) (h : k + vs.length ≤ Config.xferSize) :
      PartMove s (s.setXfer (Memory.writeAll s.xfer k vs))
  /-- Main's use of a ring buffer (R131). -/
  | ring (i : RingId) (r : Ring) (m : MainRb) (h : RingMove s i r m) :
      PartMove s ((s.setRing i r).setMainRb m)
  /-- What a handler does to the rings and the generators (R296 to R302). -/
  | handler (r0 r1 : Ring) (m : Morse) (p : Pn)
      (h0 : r0 = s.rb0 ∨ (s.isEmpty .rb0 = false ∧ r0 = s.rb0.popped s.params))
      (h1 : r1 = s.rb1 ∨ (s.isFull .rb1 = false ∧ ∃ v, r1 = s.rb1.pushed s.params .rb1 v))
      (hm : m = s.morse ∨ ∃ c, m = (Sys2Proof.Machine.morseStep s.params c s.morse).2)
      (hp : p = s.pn ∨ p = (Sys2Proof.Machine.pnStep s.params s.pn).2) :
      PartMove s { s with rb0 := r0, rb1 := r1, morse := m, pn := p }

/-- Outer operations, one part moved, and outer operations again. -/
def Moves (s t : State) : Prop := ∃ a b, Outer s a ∧ PartMove a b ∧ Outer b t

theorem Outer.moves {s t : State} (h : Outer s t) : Moves s t := ⟨s, s, .refl s, .none, h⟩

theorem Outer.then_moves {s t u : State} (h : Outer s t) (k : Moves t u) : Moves s u := by
  obtain ⟨a, b, ha, hab, hb⟩ := k
  exact ⟨a, b, h.trans ha, hab, hb⟩

theorem PartMove.then_outer {s t u : State} (h : PartMove s t) (k : Outer t u) : Moves s u :=
  ⟨s, t, .refl s, h, k⟩

theorem PartMove.moves {s t : State} (h : PartMove s t) : Moves s t := h.then_outer (.refl t)

@[simp] theorem State.setRing_ring (s : State) (i : RingId) : s.setRing i (s.ring i) = s := by
  cases i <;> rfl

/-- Main's check, which leaves the ring as it is. -/
theorem RingMove.checked {s : State} {i : RingId} {m : MainRb} (h : RingMove s i (s.ring i) m) :
    PartMove s (s.setMainRb m) := by
  have hp := PartMove.ring i _ m h
  rwa [State.setRing_ring] at hp

theorem Effect.moves {s t : State} (h : Effect s t) (hfree : s.mainRb = .none) : Moves s t := by
  cases h with
  | ends r => exact (finish_outer s r).moves
  | putInFlight i b hf => exact (RingMove.putChecked i b hf).checked.moves
  | getInFlight i he => exact (RingMove.getChecked i he).checked.moves
  | serviceInFlight he => exact (RingMove.getChecked .rb1 he).checked.then_outer (setService_outer _ _)
  | serviced v u hg =>
    rcases ringGet_cases .rb1 s with ⟨_, e⟩ | ⟨he, e⟩ <;> rw [e] at hg <;> cases hg
    have hp := PartMove.ring .rb1 _ _ (RingMove.popped hfree he)
    rw [← hfree] at hp
    exact hp.then_outer ((setState_outer _ _).finish _)
  | bus u r hu => exact (hu.outer.finish r).moves
  | burstRead u r bytes hu hn =>
    exact hu.outer.then_moves ((PartMove.xfer 0 bytes (by omega)).then_outer (finish_outer _ r))
  | transition g r => exact ((enterTarget_quiet g s).outer.finish r).moves
  | morseStart len r hl => exact (PartMove.morseStart len hl).then_outer (finish_outer _ r)
  | morseTick r => exact PartMove.morseTick.then_outer (finish_outer _ r)
  | pnInit n r h0 hn => exact (PartMove.pnInit n h0 hn).then_outer (finish_outer _ r)
  | pnTick r => exact PartMove.pnTick.then_outer (finish_outer _ r)
  | start m r hoff hm => exact ((startMode_outer hoff hm).finish r).moves
  | stop r => exact ((stopAction_quiet s).outer.finish r).moves

theorem HandlerStep.moves {s t : State} (h : HandlerStep s t) : Moves s t := by
  obtain ⟨r0, r1, m, p, h0, h1, hm, hp, q⟩ := h
  exact (PartMove.handler r0 r1 m p h0 h1 hm hp).then_outer q.outer

theorem mainGetDone_outer (v : Byte) (s : State) : Outer s (mainGetDone v s) := by
  unfold mainGetDone
  split
  · exact finish_outer s _
  · exact setService_outer s _
  · exact finish_outer s _

theorem mainMicroStep_moves {s t : State} (h : mainMicroStep s = some t) : Moves s t := by
  unfold mainMicroStep at h
  split at h <;> cases h
  case h_2 i h b hm => exact (PartMove.ring i _ _ (.stored i h b hm)).moves
  case h_3 i h b hm => exact (PartMove.ring i _ _ (.headPublished i h b hm)).then_outer (finish_outer _ _)
  case h_4 i t hm => exact (RingMove.loaded i t _ hm).checked.moves
  case h_5 i t v hm =>
    exact (PartMove.ring i _ _ (.tailPublished i t v hm)).then_outer (mainGetDone_outer v _)

theorem hostWrite_moves {sp : HostSpace} {k : Nat} (v : Byte) {s : State} (h : k < s.params.hostSize sp) :
    Moves s (hostWrite sp k v s) := by
  cases sp with
  | msg => exact (PartMove.msg k v h).moves
  | xfer => exact (PartMove.xfer k [v] h).moves

theorem NcbStep.moves {s t : State} (h : NcbStep s t) : Moves s t := by
  cases h with
  | interrupt x _ => exact (takeInterrupt_step x s).moves
  | micro _ _ hm => exact mainMicroStep_moves hm
  | service b _ _ _ => exact (((setService_outer s .idle).trans (setState_outer b _)).finish _).moves
  | wait _ _ _ => exact (Outer.refl s).moves
  | hostWrite sp k v _ h => exact (setEnv_outer s _).then_moves (hostWrite_moves v h)
  | hostRead _ => exact (setEnv_outer s _).moves
  | command i _ _ hm _ he _ => exact (setEnv_outer s _).then_moves (he.moves hm)
  | illegal _ _ => exact ((setEnv_outer s _).finish _).moves

/-- A step is block reset, or it moves at most one part beside outer operations. -/
theorem step_resets_or_moves {s t : State} (h : step s = .next t) :
    (¬ s.NoReset ∧ t = s.dropTurn.blockReset) ∨ Moves s t := by
  cases step_cases h with
  | arrival x => exact .inr ((setEnv_outer s _).trans (arrive_outer x _)).moves
  | blockReset hr => exact .inl ⟨not_not_intro hr, rfl⟩
  | turn _ hn => exact .inr ((setEnv_outer s _).then_moves hn.moves)
  | free _ hn => exact .inr hn.moves

/-- The induction over a step: a property that the outer operations and every move of a part keep is kept by a
step without block reset, and by every step if block reset keeps it too. -/
theorem step_keeps_of_parts {P : State → Prop} (houter : ∀ s t, Outer s t → P s → P t)
    (hpart : ∀ s t, PartMove s t → P s → P t) {s t : State} (hreset : s.NoReset ∨ P s.dropTurn.blockReset)
    (hp : P s) (h : step s = .next t) : P t := by
  rcases step_resets_or_moves h with ⟨hr, rfl⟩ | ⟨a, b, ha, hab, hb⟩
  · exact hreset.resolve_left hr
  · exact houter b t hb (hpart a b hab (houter s a ha hp))

end Sys2Proof.Machine
end

section
/-! PROOFS. The sticky bits: `spi_fault` and the error flags (R34, R37, R147, R310). -/

namespace Sys2Proof.Machine

/-- Moving a part leaves the registers and the trace of the outer operations. -/
theorem PartMove.frame {s t : State} (h : PartMove s t) :
    t = { s with
      rb0 := t.rb0, rb1 := t.rb1, morse := t.morse, pn := t.pn, msg := t.msg, xfer := t.xfer
      mainRb := t.mainRb } := by
  cases h with
  | ring i r m _ => cases i <;> rfl
  | none | morseStart | morseTick | pnInit | pnTick | msg | xfer | handler => rfl

/-- Settles O26: with `spi_fault` set the outer operations are silent, and no part holds it. -/
theorem spiFaultIsForEver : Obligations.SpiFaultIsForEver := by
  intro s t hno h hs
  refine step_keeps_of_parts (P := fun u => u.spiFault = true ∧ u.spiEvents = s.spiEvents) ?_ ?_ (.inl hno)
    ⟨hs, rfl⟩ h
  · rintro u v houter ⟨hu, hev⟩
    exact ⟨houter.sticky hu, (houter.silent hu).trans hev⟩
  · intro u v hpart hu
    rw [hpart.frame]
    exact hu

/-- Flags once set stay set when more are raised. -/
theorem or_and_of_and_eq {a b f : Byte} (h : a &&& b = b) : (a ||| f) &&& b = b := by
  rw [BitVec.and_comm, BitVec.and_or_distrib_left, BitVec.and_comm, h]
  ext k
  simp only [BitVec.getElem_or, BitVec.getElem_and]
  cases b[k] <;> rfl

@[simp] theorem enterTarget_beacon (g : Target) (s : State) : (enterTarget g s).2.beacon = s.beacon := by
  obtain ⟨u, hu, ⟨e, _⟩ | e⟩ := enterTarget_cases g s <;> rw [e]
  · rw [hu.frame]
  · rw [State.setRadioState_beacon, hu.frame]

@[simp] theorem setState_beacon (b : Byte) (s : State) : (setState b s).2.beacon = s.beacon := by
  rcases setState_cases b s with ⟨_, e⟩ | ⟨_, _, _, e⟩ | ⟨_, t, _, _, _, e⟩ <;> rw [e]
  exact enterTarget_beacon t s

theorem startMode_flags (m : Mode) (s : State) : (startMode m s).2.beacon.flags = s.beacon.flags := by
  rcases startMode_cases m s with ⟨u, hu, _, e⟩ | ⟨u, _, hb, _, e⟩ <;> rw [e]
  · rw [hu.frame]
  · rw [(started m u).flags, hb]

theorem stopAction_flags (s : State) : (stopAction s).2.beacon.flags = s.beacon.flags := by
  rw [stopAction, maskAndSilence_eq, enterTarget_beacon]

/-- No command writes the error flags (R310). -/
theorem Effect.flags {s t : State} (h : Effect s t) : t.beacon.flags = s.beacon.flags := by
  cases h with
  | serviced v u hg =>
    rcases ringGet_cases .rb1 s with ⟨_, e⟩ | ⟨_, e⟩ <;> rw [e] at hg <;> cases hg
    simp [State.finish]
  | bus u r hu => rw [hu.frame]; rfl
  | burstRead u r bytes hu _ => rw [hu.frame]; rfl
  | transition g r => simp [State.finish]
  | start m r _ _ => exact startMode_flags m s
  | stop r => exact stopAction_flags s
  | ends | putInFlight | getInFlight | serviceInFlight | morseStart | morseTick | pnInit | pnTick => rfl

/-- Settles O58: the outer operations only raise flags, and no effect of a command is to write them. -/
theorem flagsAreStickyAndMainNeverWritesThem : Obligations.FlagsAreStickyAndMainNeverWritesThem := by
  constructor
  · intro s t hno h
    refine step_keeps_of_parts (P := fun u => u.beacon.flags &&& s.beacon.flags = s.beacon.flags) ?_ ?_
      (.inl hno) (BitVec.and_self) h
    · intro u v houter hu
      obtain ⟨f, hf⟩ := houter.flags
      rw [hf]
      exact or_and_of_and_eq hu
    · intro u v hpart hu
      rw [hpart.frame]
      exact hu
  · intro i s t h
    obtain ⟨u, hu, he⟩ := exec_effect i s
    cases hu.symm.trans h
    exact he.flags

end Sys2Proof.Machine
end

section
/-! PROOFS. The invariants of the registers: the orchestrator's, and those of the two generators (R22, R31, R36, R37). -/

namespace Sys2Proof.Machine

/-- Block reset leaves no enable, no flag and every count 0, which agrees with mode Off (R43, R330). -/
theorem afterReset_beaconInv {p : Params} (hdiv : 1 ≤ p.toneDiv) (n : Nat) (e : Env) :
    (State.afterReset p n e).BeaconInv := by
  have hbeacon : (State.afterReset p n e).beacon = Beacon.reset := rfl
  have henable : (State.afterReset p n e).EnableInv := by
    rw [State.EnableInv, hbeacon]
    decide
  have hflags : (State.afterReset p n e).FlagsReserved := by
    rw [State.FlagsReserved, hbeacon]
    decide
  exact ⟨henable, ⟨hdiv, Nat.two_pow_pos _, Nat.two_pow_pos _, hdiv⟩, hflags⟩

/-- Settles O57: the outer operations keep the orchestrator's invariant, and no part holds its registers. -/
theorem orchestratorInvariantKept : Obligations.OrchestratorInvariantKept := by
  intro s t henable htimer hflags h
  refine step_keeps_of_parts (P := State.BeaconInv) (fun _ _ houter => houter.beaconInv) ?_
    (.inr (afterReset_beaconInv htimer.1 _ _)) ⟨henable, htimer, hflags⟩ h
  intro u v hpart hu
  rw [hpart.frame]
  exact hu

/-! ## Morse -/

/-- A unit keyed out takes no character: cursor and length stay (R207, R208). -/
theorem morseUnit_cursor (m : Morse) :
    (morseUnit m).2.messageCursor = m.messageCursor ∧ (morseUnit m).2.msgLen = m.msgLen := by
  unfold morseUnit
  split <;> exact ⟨rfl, rfl⟩

/-- A fetch moves the cursor by one, whatever the table says of the character (R209, R211, R212). -/
theorem morseFetch_cursor (p : Params) (c : Byte) (m : Morse) :
    ((morseFetch p c m).2.messageCursor = m.messageCursor + 1#16 ∧ (morseFetch p c m).2.msgLen = m.msgLen) ∧
    ∀ m1, (morseFetch p c m).1 = some m1 →
      m1.messageCursor = m.messageCursor + 1#16 ∧ m1.msgLen = m.msgLen := by
  unfold morseFetch
  dsimp only
  split
  · exact ⟨⟨rfl, rfl⟩, fun _ h => by cases h; exact ⟨rfl, rfl⟩⟩
  · exact ⟨⟨rfl, rfl⟩, fun _ h => by cases h; exact ⟨rfl, rfl⟩⟩
  · split
    · exact ⟨⟨rfl, rfl⟩, fun _ h => by cases h; exact ⟨rfl, rfl⟩⟩
    · exact ⟨⟨rfl, rfl⟩, fun _ h => by cases h⟩

/-- A step leaves the length, and moves the cursor by one, and that only before the end, or not at all. -/
theorem morseStep_cursor (p : Params) (c : Byte) (m : Morse) :
    (morseStep p c m).2.msgLen = m.msgLen ∧
    ((morseStep p c m).2.messageCursor = m.messageCursor ∨
      (m.messageCursor ≠ m.msgLen ∧ (morseStep p c m).2.messageCursor = m.messageCursor + 1#16)) := by
  obtain ⟨⟨hcursor, hlen⟩, hsome⟩ := morseFetch_cursor p c m
  unfold morseStep
  split
  · exact ⟨rfl, .inl rfl⟩
  · split
    · split
      · exact ⟨rfl, .inl rfl⟩
      · rename_i hend
        split
        · rename_i m1 _ e
          obtain ⟨hc1, hl1⟩ := hsome m1 (by rw [e])
          obtain ⟨hc2, hl2⟩ := morseUnit_cursor m1
          exact ⟨hl2.trans hl1, .inr ⟨hend, hc2.trans hc1⟩⟩
        · rename_i m1 e
          rw [e] at hcursor hlen
          exact ⟨hlen, .inr ⟨hend, hcursor⟩⟩
    · obtain ⟨hc, hl⟩ := morseUnit_cursor m
      exact ⟨hl, .inl hc⟩

/-- The cursor stays within the message: it moves only before the end (R22). -/
theorem morseStep_cursor_le (p : Params) (c : Byte) {m : Morse}
    (h : m.messageCursor.toNat ≤ m.msgLen.toNat) :
    (morseStep p c m).2.messageCursor.toNat ≤ (morseStep p c m).2.msgLen.toNat := by
  obtain ⟨hlen, hcursor | ⟨hend, hcursor⟩⟩ := morseStep_cursor p c m
  · rwa [hlen, hcursor]
  · have hne : m.messageCursor.toNat ≠ m.msgLen.toNat := fun e => hend (BitVec.eq_of_toNat_eq e)
    have hadd : (m.messageCursor + 1#16).toNat ≤ m.messageCursor.toNat + 1 := by
      rw [BitVec.toNat_add]
      exact Nat.mod_le _ _
    rw [hlen, hcursor]
    omega

theorem Outer.morseInv {s t : State} (h : Outer s t) (hs : s.MorseInv) : t.MorseInv := by
  rw [h.frame]
  exact hs

theorem PartMove.morseInv {s t : State} (h : PartMove s t) (hs : s.MorseInv) : t.MorseInv := by
  obtain ⟨hcursor, hlen⟩ := hs
  have step : ∀ c, (Machine.morseStep s.params c s.morse).2.messageCursor.toNat ≤
        (Machine.morseStep s.params c s.morse).2.msgLen.toNat ∧
      (Machine.morseStep s.params c s.morse).2.msgLen.toNat ≤ s.params.msgSize := fun c =>
    ⟨morseStep_cursor_le s.params c hcursor, by rwa [(morseStep_cursor s.params c s.morse).1]⟩
  cases h with
  | morseStart len hl => exact ⟨Nat.zero_le _, hl⟩
  | morseTick => exact step _
  | handler r0 r1 m p _ _ hm _ =>
    rcases hm with rfl | ⟨c, rfl⟩
    · exact ⟨hcursor, hlen⟩
    · exact step c
  | ring i r m _ => cases i <;> exact ⟨hcursor, hlen⟩
  | none | pnInit | pnTick | msg | xfer => exact ⟨hcursor, hlen⟩

/-- Settles O42: only a Morse step moves the cursor, by one and before the end; only `MORSE_START` sets the
length, which it checks. -/
theorem morseCursorInvariantKept : Obligations.MorseCursorInvariantKept := by
  have hreset : ∀ p n e, (State.afterReset p n e).MorseInv := fun _ _ _ => ⟨Nat.le_refl _, Nat.zero_le _⟩
  refine ⟨hreset _ _ _, fun s t hs h => ?_⟩
  exact step_keeps_of_parts (P := State.MorseInv) (fun _ _ => Outer.morseInv) (fun _ _ => PartMove.morseInv)
    (.inr (hreset _ _ _)) hs h

/-! ## PN -/

theorem Outer.pnInv {s t : State} (h : Outer s t) (hs : s.PnInv) : t.PnInv := by
  rw [h.frame]
  exact hs

/-- The conditions a legal configuration meets, one by one (R8, R22, R25, R177, R230, U5, U12). -/
theorem Params.legal_iff {p : Params} : p.legal = true ↔
    p.pnNLegal = true ∧ p.pnPeriodTarget ≠ 0#16 ∧ 1 ≤ p.rbW ∧ capLegal p.rbW p.rbCap0 = true ∧
      capLegal p.rbW p.rbCap1 = true ∧ namesNoOpmode p.radio p.xmitDirectList = true ∧
      namesNoOpmode p.radio p.xmitPacketList = true ∧ morseTableLegal p.morseTable = true ∧
      p.msgSize ≤ 65535 ∧ 1 ≤ p.toneDiv ∧ irqOrderLegal p.irqOrder = true := by
  simp only [Params.legal, Params.rbWLegal, Bool.and_eq_true, bne_iff_ne, decide_eq_true_eq, and_assoc]

/-- A legal register length is at least 1 (R230). -/
theorem Params.one_le_pnN {p : Params} (h : p.legal = true) : 1 ≤ p.pnN := by
  obtain ⟨hn, _⟩ := Params.legal_iff.mp h
  simp only [Params.pnNLegal, List.contains_iff_mem, List.mem_cons, List.not_mem_nil, or_false] at hn
  omega

/-- A legal period target is not 0 (R8). -/
theorem Params.pnPeriodTarget_pos {p : Params} (h : p.legal = true) : 0 < p.pnPeriodTarget.toNat := by
  obtain ⟨_, hn, _⟩ := Params.legal_iff.mp h
  exact Nat.pos_of_ne_zero fun e => hn (BitVec.eq_of_toNat_eq e)

theorem pnNext_lt {n gpoly r : Nat} (h : r < 2 ^ n) : pnNext n gpoly r < 2 ^ n := by
  unfold pnNext
  split
  · exact Nat.mod_lt _ (Nat.two_pow_pos n)
  · exact Nat.lt_of_le_of_lt (Nat.shiftRight_le r 1) h

/-- A shift never empties a register that is not empty: a bit shifted out sets the top bit (R231, R241). -/
theorem pnNext_ne_zero {n gpoly r : Nat} (hn : 1 ≤ n) (h : r ≠ 0) : pnNext n gpoly r ≠ 0 := by
  unfold pnNext
  split
  · intro h0
    have htop : (truncW n ((r ^^^ gpoly) >>> 1 ||| 2 ^ (n - 1))).testBit (n - 1) = true := by
      rw [truncW, Nat.testBit_mod_two_pow, Nat.testBit_or, Nat.testBit_two_pow_self]
      simp
      omega
    rw [h0, Nat.zero_testBit] at htop
    cases htop
  · rename_i hodd
    intro h0
    rw [Nat.shiftRight_eq_div_pow] at h0
    simp only [Nat.testBit_zero, decide_eq_true_eq] at hodd
    omega

/-- What holds of the PN generator under a configuration: the part of `PnInv` beside legality (R31, R238, R241). -/
def Pn.Sound (p : Params) (g : Pn) : Prop :=
  g.reg < 2 ^ p.pnN ∧ g.seed < 2 ^ p.pnN ∧
    (g.complete = false → g.reg ≠ 0 ∧ g.seed ≠ 0 ∧ g.periodCounter.toNat < p.pnPeriodTarget.toNat)

theorem State.pnInv_iff (s : State) : s.PnInv ↔ s.params.legal = true ∧ s.pn.Sound s.params := Iff.rfl

theorem pnStep_sound {p : Params} {g : Pn} (hlegal : p.legal = true) (h : g.Sound p) :
    (pnStep p g).2.Sound p := by
  obtain ⟨hreg, hseed, hrun⟩ := h
  rcases pnStep_cases p g with ⟨_, e⟩ | ⟨hc, _, e⟩ | ⟨hc, _, e⟩ <;> rw [e]
  · exact ⟨hreg, hseed, hrun⟩
  · obtain ⟨hreg0, hseed0, hcount⟩ := hrun hc
    exact ⟨pnNext_lt hreg, hseed, fun _ => ⟨pnNext_ne_zero (Params.one_le_pnN hlegal) hreg0, hseed0, hcount⟩⟩
  · obtain ⟨_, hseed0, hcount⟩ := hrun hc
    refine ⟨hseed, hseed, fun hnew => ⟨hseed0, hseed0, ?_⟩⟩
    have hne : (g.periodCounter + 1#16).toNat ≠ p.pnPeriodTarget.toNat := fun e =>
      (beq_eq_false_iff_ne.mp hnew) (BitVec.eq_of_toNat_eq e)
    have hadd : (g.periodCounter + 1#16).toNat ≤ g.periodCounter.toNat + 1 := by
      rw [BitVec.toNat_add]
      exact Nat.mod_le _ _
    change (g.periodCounter + 1#16).toNat < _
    omega

theorem PartMove.pnInv {s t : State} (h : PartMove s t) (hs : s.PnInv) : t.PnInv := by
  rw [State.pnInv_iff] at hs ⊢
  obtain ⟨hlegal, hpn⟩ := hs
  cases h with
  | pnInit n h0 hn =>
    exact ⟨hlegal, hn, hn, fun _ => ⟨h0, h0, Params.pnPeriodTarget_pos hlegal⟩⟩
  | pnTick => exact ⟨hlegal, pnStep_sound hlegal hpn⟩
  | handler r0 r1 m p _ _ _ hp =>
    rcases hp with rfl | rfl
    · exact ⟨hlegal, hpn⟩
    · exact ⟨hlegal, pnStep_sound hlegal hpn⟩
  | ring i r m _ => cases i <;> exact ⟨hlegal, hpn⟩
  | none | morseStart | morseTick | msg | xfer => exact ⟨hlegal, hpn⟩

/-- Block reset leaves the generator complete, its registers 0 (R32, R330). -/
theorem afterReset_pnInv {p : Params} (h : p.legal = true) (n : Nat) (e : Env) :
    (State.afterReset p n e).PnInv :=
  ⟨h, Nat.two_pow_pos _, Nat.two_pow_pos _, fun hrun => by cases hrun⟩

/-- Settles O46: a PN step keeps the registers sound, and `PN_INIT` starts them so. -/
theorem pnInvariantKept : Obligations.PnInvariantKept := by
  intro s t hs h
  exact step_keeps_of_parts (P := State.PnInv) (fun _ _ => Outer.pnInv) (fun _ _ => PartMove.pnInv)
    (.inr (afterReset_pnInv hs.1 _ _)) hs h

end Sys2Proof.Machine
end

section
/-! PROOFS. Every step keeps the four memories canonical and inside their spaces (R40, R62). -/

namespace Sys2Proof.Machine

/-- A legal capacity holds at least one byte and is below the index range (R25). -/
theorem Params.rbCap_bounds {p : Params} (h : p.legal = true) (i : RingId) :
    1 ≤ p.rbCap i ∧ p.rbCap i < 2 ^ p.rbW := by
  obtain ⟨_, _, hw, hcap0, hcap1, _⟩ := Params.legal_iff.mp h
  have hhalf : 2 ^ (p.rbW - 1) < 2 ^ p.rbW := Nat.pow_lt_pow_right (by omega) (by omega)
  have hi : capLegal p.rbW (p.rbCap i) = true := by
    cases i
    · exact hcap0
    · exact hcap1
  obtain ⟨hpos, hle⟩ := capLegal_bounds hi
  exact ⟨hpos, Nat.lt_of_le_of_lt hle hhalf⟩

theorem State.ring_setRing_ne (s : State) {i j : RingId} (h : j ≠ i) (r : Ring) :
    (s.setRing i r).ring j = s.ring j := by
  match i, j with
  | .rb0, .rb1 => rfl
  | .rb1, .rb0 => rfl
  | .rb0, .rb0 => exact absurd rfl h
  | .rb1, .rb1 => exact absurd rfl h

/-- A memory in canonical form whose every index is below the size of its space. -/
def Memory.Within (m : Memory) (size : Nat) : Prop := Memory.wf m ∧ ∀ c ∈ m, c.1 < size

theorem Memory.Within.write {m : Memory} {size k : Nat} (h : m.Within size) (hk : k < size) (v : Byte) :
    Memory.Within (Memory.write m k v) size :=
  ⟨Memory.write_wf h.1 k v, Memory.write_inRange h.2 hk v⟩

theorem Memory.Within.writeAll {m : Memory} {size k : Nat} {vs : List Byte} (h : m.Within size)
    (hk : k + vs.length ≤ size) : Memory.Within (Memory.writeAll m k vs) size :=
  ⟨Memory.writeAll_wf h.1 k vs, Memory.writeAll_inRange h.2 hk⟩

/-- A legal configuration, and each memory within its space. -/
def State.MemoryInv (s : State) : Prop :=
  s.params.legal = true ∧ (∀ i, Memory.Within (s.ring i).buf (s.params.rbCap i)) ∧
    Memory.Within s.msg s.params.msgSize ∧ Memory.Within s.xfer Config.xferSize

theorem State.memoryInv_iff (s : State) :
    s.MemoryInv ↔ s.params.legal = true ∧ s.MemoryCanonical ∧ s.MemoryInRange := by
  constructor
  · rintro ⟨hlegal, hring, ⟨hmsg, hmsg'⟩, ⟨hxfer, hxfer'⟩⟩
    obtain ⟨h0, h0'⟩ := hring .rb0
    obtain ⟨h1, h1'⟩ := hring .rb1
    exact ⟨hlegal, ⟨h0, h1, hmsg, hxfer⟩, ⟨h0', h1', hmsg', hxfer'⟩⟩
  · rintro ⟨hlegal, ⟨h0, h1, hmsg, hxfer⟩, ⟨h0', h1', hmsg', hxfer'⟩⟩
    refine ⟨hlegal, fun i => ?_, ⟨hmsg, hmsg'⟩, ⟨hxfer, hxfer'⟩⟩
    cases i
    · exact ⟨h0, h0'⟩
    · exact ⟨h1, h1'⟩

theorem Outer.memoryInv {s t : State} (h : Outer s t) (hs : s.MemoryInv) : t.MemoryInv := by
  rw [h.frame]
  exact hs

/-- A byte stored at a slot of a ring stays inside its array (R62, R121). -/
theorem Memory.Within.write_slot {m : Memory} {p : Params} {i : RingId} (h : m.Within (p.rbCap i))
    (hlegal : p.legal = true) (x : Nat) (v : Byte) :
    Memory.Within (Memory.write m (slot (p.rbCap i) x) v) (p.rbCap i) :=
  h.write (slot_lt (Params.rbCap_bounds hlegal i).1 x) v

/-- Main's use of a ring buffer stores at a slot, if it stores. -/
theorem RingMove.within {s : State} {i : RingId} {r : Ring} {m : MainRb} (h : RingMove s i r m)
    (hs : s.MemoryInv) : Memory.Within r.buf (s.params.rbCap i) := by
  obtain ⟨hlegal, hring, _⟩ := hs
  cases h with
  | stored i x b _ => exact (hring i).write_slot hlegal x b
  | putChecked | getChecked | headPublished | loaded | tailPublished => exact hring i
  | popped => exact hring .rb1

theorem PartMove.memoryInv {s t : State} (h : PartMove s t) (hs : s.MemoryInv) : t.MemoryInv := by
  obtain ⟨hlegal, hring, hmsg, hxfer⟩ := hs
  cases h with
  | msg k v hk => exact ⟨hlegal, hring, hmsg.write hk v, hxfer⟩
  | xfer k vs hk => exact ⟨hlegal, hring, hmsg, hxfer.writeAll hk⟩
  | ring i r m hr =>
    have hwithin := hr.within ⟨hlegal, hring, hmsg, hxfer⟩
    refine ⟨by simpa using hlegal, fun j => ?_, by simpa using hmsg, by simpa using hxfer⟩
    change Memory.Within ((s.setRing i r).ring j).buf ((s.setRing i r).params.rbCap j)
    rw [State.setRing_params]
    by_cases hj : j = i
    · rw [hj, State.ring_setRing]
      exact hwithin
    · rw [State.ring_setRing_ne s hj]
      exact hring j
  | handler r0 r1 m p h0 h1 _ _ =>
    refine ⟨hlegal, fun i => ?_, hmsg, hxfer⟩
    cases i with
    | rb0 => rcases h0 with rfl | ⟨_, rfl⟩ <;> exact hring .rb0
    | rb1 =>
      rcases h1 with rfl | ⟨_, v, rfl⟩
      · exact hring .rb1
      · exact (hring .rb1).write_slot (i := .rb1) hlegal _ v
  | none | morseStart | morseTick | pnInit | pnTick => exact ⟨hlegal, hring, hmsg, hxfer⟩

/-- Block reset empties the memories (R43, R330). -/
theorem afterReset_memoryInv {p : Params} (h : p.legal = true) (n : Nat) (e : Env) :
    (State.afterReset p n e).MemoryInv := by
  have hempty : ∀ size, Memory.Within [] size := fun _ => ⟨.nil, by simp⟩
  exact ⟨h, fun i => by cases i <;> exact hempty _, hempty _, hempty _⟩

/-- Settles O18: each store of a step is at an index of its space, and a write keeps the canonical form. -/
theorem memoryInvariantKept : Obligations.MemoryInvariantKept := by
  intro s t hlegal hcanonical hrange h
  exact (State.memoryInv_iff t).mp (step_keeps_of_parts (P := State.MemoryInv) (fun _ _ => Outer.memoryInv)
    (fun _ _ => PartMove.memoryInv) (.inr (afterReset_memoryInv hlegal _ _))
    ((State.memoryInv_iff s).mpr ⟨hlegal, hcanonical, hrange⟩) h)

end Sys2Proof.Machine
end

section
/-! PROOFS. Every step keeps both ring buffers sound, also while a command of Main is in flight (R24, R131, R132).
Main and the handlers each write one end of a ring: what the check of a command in flight found can then only get
better before its last micro-step. -/

namespace Sys2Proof.Machine

/-- The indices of a ring fit their width, and it holds at most its capacity (R24). -/
def Ring.Sound (r : Ring) (p : Params) (i : RingId) : Prop :=
  r.head < 2 ^ p.rbW ∧ r.tail < 2 ^ p.rbW ∧ subW p.rbW r.head r.tail ≤ p.rbCap i

theorem State.ringInv_iff (s : State) :
    s.RingInv ↔ s.params.legal = true ∧ (∀ i, (s.ring i).Sound s.params i) ∧ s.InFlightOk := by
  constructor
  · rintro ⟨hlegal, h0, h1, hf⟩
    refine ⟨hlegal, fun i => ?_, hf⟩
    cases i
    · exact h0
    · exact h1
  · rintro ⟨hlegal, hring, hf⟩
    exact ⟨hlegal, hring .rb0, hring .rb1, hf⟩

theorem inFlightOk_none {s : State} (h : s.mainRb = .none) : s.InFlightOk := by
  simp only [State.InFlightOk, h]

theorem inFlightOk_put {s : State} {i : RingId} {h : Nat} {b : Byte} {ph : PutPhase}
    (hm : s.mainRb = .put i h b ph) : s.InFlightOk ↔
      h < 2 ^ s.params.rbW ∧ subW s.params.rbW h (s.ring i).tail < s.params.rbCap i ∧
        (i = .rb0 → h = s.rb0.head) := by
  simp only [State.InFlightOk, hm]

theorem inFlightOk_get {s : State} {i : RingId} {t : Nat} {ph : GetPhase}
    (hm : s.mainRb = .get i t ph) : s.InFlightOk ↔
      t < 2 ^ s.params.rbW ∧ 1 ≤ subW s.params.rbW (s.ring i).head t ∧
        subW s.params.rbW (s.ring i).head t ≤ s.params.rbCap i ∧ (i = .rb1 → t = s.rb1.tail) := by
  simp only [State.InFlightOk, hm]

/-- Publishing a head that was found to leave room keeps the ring sound (R122). -/
theorem sound_of_headPublished {p : Params} {i : RingId} {h t : Nat} (hlegal : p.legal = true)
    (hh : h < 2 ^ p.rbW) (ht : t < 2 ^ p.rbW) (hroom : subW p.rbW h t < p.rbCap i) (buf : Memory) :
    Ring.Sound ⟨buf, addW p.rbW h 1, t⟩ p i := by
  have hcap := (Params.rbCap_bounds hlegal i).2
  have hsub := subW_addW_left hh ht (by omega)
  exact ⟨addW_lt .., ht, by simp only; omega⟩

/-- Publishing a tail that was found to have a byte keeps the ring sound (R124). -/
theorem sound_of_tailPublished {p : Params} {i : RingId} {h t : Nat} (hh : h < 2 ^ p.rbW)
    (ht : t < 2 ^ p.rbW) (hbyte : 1 ≤ subW p.rbW h t) (hle : subW p.rbW h t ≤ p.rbCap i) (buf : Memory) :
    Ring.Sound ⟨buf, h, addW p.rbW t 1⟩ p i := by
  have hsub := subW_addW_right hh ht hbyte
  exact ⟨hh, addW_lt .., by simp only; omega⟩

/-- A ring that is not full has room (R121). -/
theorem room_of_not_full {s : State} {i : RingId} (hs : (s.ring i).Sound s.params i)
    (h : s.isFull i = false) : subW s.params.rbW (s.ring i).head (s.ring i).tail < s.params.rbCap i :=
  Nat.lt_of_le_of_ne hs.2.2 (by simpa [State.isFull, State.occupied] using h)

/-- A ring that is not empty holds a byte (R121). -/
theorem byte_of_not_empty {s : State} {i : RingId} (h : s.isEmpty i = false) :
    1 ≤ subW s.params.rbW (s.ring i).head (s.ring i).tail :=
  Nat.one_le_iff_ne_zero.mpr (by simpa [State.isEmpty, State.occupied] using h)

theorem Outer.ringInv {s t : State} (h : Outer s t) (hs : s.RingInv) : t.RingInv := by
  rw [h.frame]
  exact hs

/-- Main's use of a ring leaves it sound: it publishes only an index its check has cleared. -/
theorem RingMove.sound {s : State} {i : RingId} {r : Ring} {m : MainRb} (h : RingMove s i r m)
    (hs : s.RingInv) : r.Sound s.params i := by
  obtain ⟨hlegal, hring, hflight⟩ := (State.ringInv_iff s).mp hs
  cases h with
  | putChecked | getChecked | stored | loaded => exact hring i
  | headPublished i x b hm =>
    obtain ⟨hx, hroom, _⟩ := (inFlightOk_put hm).mp hflight
    exact sound_of_headPublished hlegal hx (hring i).2.1 hroom _
  | tailPublished i x v hm =>
    obtain ⟨hx, hbyte, hle, _⟩ := (inFlightOk_get hm).mp hflight
    exact sound_of_tailPublished (hring i).1 hx hbyte hle _
  | popped _ he =>
    obtain ⟨hh, ht, hle⟩ := hring .rb1
    exact sound_of_tailPublished hh ht (byte_of_not_empty he) hle _

/-- What a check found is what `InFlightOk` asks of the command it puts in flight, and it stays so until the
command's last micro-step. -/
theorem RingMove.inFlightOk {s : State} {i : RingId} {r : Ring} {m : MainRb} (h : RingMove s i r m)
    (hs : s.RingInv) : ((s.setRing i r).setMainRb m).InFlightOk := by
  obtain ⟨_, hring, hflight⟩ := (State.ringInv_iff s).mp hs
  cases h with
  | putChecked i b hf =>
    rw [State.setRing_ring, inFlightOk_put rfl]
    exact ⟨(hring i).1, room_of_not_full (hring i) hf, fun hi => by rw [hi]; rfl⟩
  | getChecked i he =>
    rw [State.setRing_ring, inFlightOk_get rfl]
    exact ⟨(hring i).2.1, byte_of_not_empty he, (hring i).2.2, fun hi => by rw [hi]; rfl⟩
  | stored i x b hm =>
    rw [inFlightOk_put rfl]
    cases i <;> exact (inFlightOk_put hm).mp hflight
  | loaded i x v hm =>
    rw [State.setRing_ring, inFlightOk_get rfl]
    exact (inFlightOk_get hm).mp hflight
  | headPublished | tailPublished | popped => exact inFlightOk_none rfl

/-- A handler's get takes a byte from the other end than a put of Main fills, and its put fills the other end than a
get of Main takes from: the command in flight keeps what its check found (R24, R131, R132). -/
theorem inFlightOk_of_handler {s : State} {r0 r1 : Ring} (m : Morse) (p : Pn) (hs : s.RingInv)
    (h0 : r0 = s.rb0 ∨ (s.isEmpty .rb0 = false ∧ r0 = s.rb0.popped s.params))
    (h1 : r1 = s.rb1 ∨ (s.isFull .rb1 = false ∧ ∃ v, r1 = s.rb1.pushed s.params .rb1 v)) :
    State.InFlightOk { s with rb0 := r0, rb1 := r1, morse := m, pn := p } := by
  obtain ⟨hlegal, hring, hflight⟩ := (State.ringInv_iff s).mp hs
  have hhead0 : r0.head = s.rb0.head := by rcases h0 with rfl | ⟨_, rfl⟩ <;> rfl
  have htail1 : r1.tail = s.rb1.tail := by rcases h1 with rfl | ⟨_, v, rfl⟩ <;> rfl
  cases hm : s.mainRb with
  | none => exact inFlightOk_none rfl
  | put i x b ph =>
    obtain ⟨hx, hroom, hown⟩ := (inFlightOk_put hm).mp hflight
    refine (inFlightOk_put rfl).mpr ⟨hx, ?_, fun hi => (hown hi).trans hhead0.symm⟩
    cases i with
    | rb0 =>
      rcases h0 with rfl | ⟨he, rfl⟩
      · exact hroom
      · cases hown rfl
        have hsub := subW_addW_right (hring .rb0).1 (hring .rb0).2.1 (byte_of_not_empty he)
        exact Nat.lt_of_le_of_lt (hsub.trans_le (Nat.sub_le _ _)) hroom
    | rb1 =>
      simp only [State.ring_rb1, htail1]
      exact hroom
  | get i x ph =>
    obtain ⟨hx, hbyte, hle, hown⟩ := (inFlightOk_get hm).mp hflight
    refine (inFlightOk_get rfl).mpr ⟨hx, and_assoc.mp ⟨?_, fun hi => (hown hi).trans htail1.symm⟩⟩
    cases i with
    | rb0 =>
      simp only [State.ring_rb0, hhead0]
      exact ⟨hbyte, hle⟩
    | rb1 =>
      rcases h1 with rfl | ⟨hf, v, rfl⟩
      · exact ⟨hbyte, hle⟩
      · cases hown rfl
        have hroom := room_of_not_full (hring .rb1) hf
        have hcap := (Params.rbCap_bounds hlegal .rb1).2
        have hsub := subW_addW_left (hring .rb1).1 (hring .rb1).2.1 (by omega)
        exact ⟨(Nat.le_add_left 1 _).trans_eq hsub.symm, hsub.trans_le hroom⟩

theorem PartMove.ringInv {s t : State} (h : PartMove s t) (hs : s.RingInv) : t.RingInv := by
  obtain ⟨hlegal, hring, hflight⟩ := (State.ringInv_iff s).mp hs
  cases h with
  | ring i r m hr =>
    have hsound := hr.sound hs
    refine (State.ringInv_iff _).mpr ⟨by simpa using hlegal, fun j => ?_, hr.inFlightOk hs⟩
    change Ring.Sound ((s.setRing i r).ring j) (s.setRing i r).params j
    rw [State.setRing_params]
    by_cases hj : j = i
    · rw [hj, State.ring_setRing]
      exact hsound
    · rw [State.ring_setRing_ne s hj]
      exact hring j
  | handler r0 r1 m p h0 h1 _ _ =>
    refine (State.ringInv_iff _).mpr ⟨hlegal, fun i => ?_, inFlightOk_of_handler m p hs h0 h1⟩
    cases i with
    | rb0 =>
      rcases h0 with rfl | ⟨he, rfl⟩
      · exact hring .rb0
      · exact sound_of_tailPublished (hring .rb0).1 (hring .rb0).2.1 (byte_of_not_empty he) (hring .rb0).2.2 _
    | rb1 =>
      rcases h1 with rfl | ⟨hf, v, rfl⟩
      · exact hring .rb1
      · exact sound_of_headPublished hlegal (hring .rb1).1 (hring .rb1).2.1 (room_of_not_full (hring .rb1) hf) _
  | none | morseStart | morseTick | pnInit | pnTick | msg | xfer => exact ⟨hlegal, hring .rb0, hring .rb1, hflight⟩

/-- Block reset leaves both rings empty and nothing in flight (R26, R43, R330). -/
theorem afterReset_ringInv {p : Params} (h : p.legal = true) (n : Nat) (e : Env) :
    (State.afterReset p n e).RingInv := by
  have hempty : ∀ i, Ring.Sound Ring.reset p i := fun i =>
    ⟨Nat.two_pow_pos _, Nat.two_pow_pos _, by simp [subW, Ring.reset]⟩
  exact (State.ringInv_iff _).mpr ⟨h, fun i => by cases i <;> exact hempty _, inFlightOk_none rfl⟩

/-- Settles O17: the outer operations leave the rings, and each way of moving them keeps them sound. -/
theorem ringInvariantKept : Obligations.RingInvariantKept := by
  intro s t hs h
  exact step_keeps_of_parts (P := State.RingInv) (fun _ _ => Outer.ringInv) (fun _ _ => PartMove.ringInv)
    (.inr (afterReset_ringInv hs.1 _ _)) hs h

end Sys2Proof.Machine
end

section
/-! PROOFS. Block reset, and the machine right after it (R43, R330). -/

namespace Sys2Proof.Machine

/-- The turn now taken, as a record update. -/
theorem dropTurn_of_turns {s : State} {x : Turn} {turns : List Turn} (ht : s.env.turns = x :: turns) :
    s.dropTurn = { s with env := { s.env with turns := turns } } := by
  simp only [State.dropTurn, State.setEnv, ht, List.tail_cons]

/-- Settles O9: the reset values are those of `State.afterReset`, and a turn of block reset leads there. -/
theorem blockResetLeavesTheResetValues : Obligations.BlockResetLeavesTheResetValues := by
  constructor
  · intro p n e
    have hring : ∀ i, ((State.afterReset p n e).ring i).head = 0 ∧ ((State.afterReset p n e).ring i).tail = 0 := by
      intro i
      cases i <;> exact ⟨rfl, rfl⟩
    exact ⟨hring, rfl, rfl, rfl, rfl, rfl, rfl, rfl, rfl, rfl⟩
  · intro s turns ht
    have haction : nextAction s = .done s.dropTurn.blockReset := by simp only [nextAction, ht]
    rw [step_eq, haction, dropTurn_of_turns ht]
    rfl

/-- Leaving out the entries that name an operating-mode register meets the condition of R177 and D14. -/
theorem namesNoOpmode_withoutOpmode (m : RadioMap) (l : ConfigList) :
    namesNoOpmode m (withoutOpmode m l) = true := by
  rw [namesNoOpmode, List.all_eq_true]
  intro e he
  exact (List.mem_filter.mp he).2

/-- The default table has 54 entries for distinct characters, and no letter code is an exhausted value (R110). -/
theorem defaultMorseTable_legal : morseTableLegal defaultMorseTable = true := by decide

/-- The default configuration is legal, whatever its free values are (R8; logs 2 and 3). -/
theorem defaultParams_legal : defaultParams.legal = true := by
  rw [Params.legal_iff]
  exact ⟨rfl, by decide, by decide, by decide, by decide, namesNoOpmode_withoutOpmode _ _,
    namesNoOpmode_withoutOpmode _ _, defaultMorseTable_legal, by decide, Nat.le_add_left _ _, by decide⟩

/-- The block can be built with the default configuration (D14, D30). -/
theorem defaultParams_constructible : defaultParams.constructible = true := by
  have hprofile : ∀ l, namesNoOpmode defaultParams.radio (withoutOpmode defaultRadioMap l) = true :=
    namesNoOpmode_withoutOpmode defaultRadioMap
  simp only [Params.constructible, Bool.and_eq_true]
  exact ⟨⟨⟨⟨defaultParams_legal, hprofile _⟩, hprofile _⟩, hprofile _⟩, by decide⟩

/-- Settles O59: each invariant holds after a reset with a legal configuration, which the default one is. -/
theorem invariantsHoldAtReset : Obligations.InvariantsHoldAtReset := by
  have hlegal : State.reset.params.legal = true := defaultParams_legal
  have hdiv : 1 ≤ defaultParams.toneDiv := Nat.le_add_left _ _
  obtain ⟨_, hcanonical, hrange⟩ := (State.memoryInv_iff _).mp (afterReset_memoryInv hlegal 0 Env.none)
  obtain ⟨henable, htimer, hflags⟩ := afterReset_beaconInv hdiv 0 Env.none
  exact ⟨hlegal, defaultParams_constructible, afterReset_ringInv hlegal _ _, hcanonical, hrange,
    afterReset_pnInv hlegal _ _, henable, htimer, hflags⟩

/-! ## Handlers -/

/-- Settles O16: what a handler can do at all (`HandlerStep`) leaves these parts alone. -/
theorem handlersKeepTheirRingRoles : Obligations.HandlersKeepTheirRingRoles := by
  intro x s
  obtain ⟨r0, r1, m, p, h0, h1, _, _, q⟩ := takeInterrupt_step x s
  have hbuf0 : r0.buf = s.rb0.buf := by rcases h0 with rfl | ⟨_, rfl⟩ <;> rfl
  have hhead0 : r0.head = s.rb0.head := by rcases h0 with rfl | ⟨_, rfl⟩ <;> rfl
  have htail1 : r1.tail = s.rb1.tail := by rcases h1 with rfl | ⟨_, v, rfl⟩ <;> rfl
  rw [q.frame]
  exact ⟨hbuf0, hhead0, htail1, rfl, rfl, rfl, rfl, rfl⟩

end Sys2Proof.Machine
end

section
/-! PROOFS. A host access to MSG or XFER (R40, R65, R69). -/

namespace Sys2Proof.Machine

/-- The space a host access reaches. -/
def HostSpace.space (sp : HostSpace) : Space :=
  match sp with
  | .msg => .msg
  | .xfer => .xfer

theorem hostRead_eq (sp : HostSpace) (k : Nat) (s : State) : hostRead sp k s = s.readByte sp.space k := by
  cases sp <;> rfl

/-- A host write is read back and changes no other byte (R40, R65). -/
theorem readByte_hostWrite (sp : HostSpace) (k : Nat) (v : Byte) (s : State) (sp' : Space) (k' : Nat) :
    (hostWrite sp k v s).readByte sp' k' = if sp' = sp.space ∧ k' = k then v else s.readByte sp' k' := by
  have hother : sp' ≠ sp.space → (hostWrite sp k v s).memory sp' = s.memory sp' := by
    cases sp <;> cases sp' <;> simp [HostSpace.space, hostWrite, State.memory]
  have hsame : (hostWrite sp k v s).memory sp.space = Memory.write (s.memory sp.space) k v := by
    cases sp <;> rfl
  have hepoch : (hostWrite sp k v s).epoch = s.epoch := by cases sp <;> rfl
  unfold State.readByte
  rw [hepoch]
  by_cases hsp : sp' = sp.space
  · rw [hsp, hsame, Memory.lookup_write]
    by_cases hk : k' = k <;> simp [hk]
  · rw [hother hsp]
    simp [hsp]

/-- A host access is no command word. -/
def Request.isHostAccess (r : Request) : Prop := ∀ w, r ≠ .command w

/-- A free Main begins its next request. -/
theorem mainAction_of_free {s : State} (hm : s.mainRb = .none) (hv : s.service = .idle) :
    mainAction s = beginRequest s := by
  simp only [mainAction, mainMicroStep_none.mpr hm, hv]

/-- In a `host` turn Main begins the host access it has next, whatever it is in. -/
theorem hostAction_of_hostAccess {s : State} {r : Request} {rest : List Request}
    (hr : s.env.requests = r :: rest) (hacc : r.isHostAccess) : hostAction s = beginRequest s := by
  cases r with
  | command w => exact absurd rfl (hacc w)
  | hostWrite sp k v => simp only [hostAction, hr]
  | hostRead sp k => simp only [hostAction, hr]

/-- A step in which Main makes a host access begins that request, in the state with the turn taken. -/
theorem step_of_makesHostAccess {s s0 : State} {r : Request} (h : s.MakesHostAccess r s0)
    (hacc : r.isHostAccess) : ∃ u rest, u.env.requests = r :: rest ∧ u.params = s.params ∧
      u.dropRequest = s0 ∧ (∀ sp k, u.readByte sp k = s.readByte sp k) ∧
      step s = afterAction (beginRequest u) := by
  obtain ⟨hi, rest, hr, ⟨⟨hturns, _, hm, hv⟩, rfl⟩ | ⟨turns, ht, rfl⟩⟩ := h
  · refine ⟨s, rest, hr, rfl, dropRequest_of_requests hr, fun _ _ => rfl, ?_⟩
    rw [step_eq, nextAction_of_no_turns hturns, afterInterrupts_of_none hi, mainAction_of_free hm hv]
  · have haction : nextAction s = afterInterrupts hostAction s.dropTurn := by simp only [nextAction, ht]
    have hr' : s.dropTurn.env.requests = r :: rest := hr
    have hi' : s.dropTurn.nextInterrupt = none := hi
    refine ⟨s.dropTurn, rest, hr', rfl, ?_, fun sp k => by cases sp <;> rfl, ?_⟩
    · rw [dropRequest_of_requests hr', dropTurn_of_turns ht]
    · rw [step_eq, haction, afterInterrupts_of_none hi', hostAction_of_hostAccess hr' hacc]

/-- Settles O19: the step is that of the request alone, and the write is one write to one memory. -/
theorem hostWriteIsReadBack : Obligations.HostWriteIsReadBack := by
  intro s s0 sp k
  constructor
  · intro v h
    obtain ⟨u, rest, hr, hp, rfl, hbytes, hstep⟩ := step_of_makesHostAccess h (by rintro w ⟨⟩)
    constructor
    · intro hk
      have hread := readByte_hostWrite sp k v u.dropRequest
      refine ⟨hostWrite sp k v u.dropRequest, ?_, ?_, ?_, ?_⟩
      · rw [hstep, beginRequest, hr]
        simp only [hp, hk, if_true, afterAction]
      · rw [hostRead_eq, hread, if_pos ⟨rfl, rfl⟩]
      · intro sp' k' hne
        rw [hread, if_neg (by cases sp <;> exact hne), ← hbytes]
        cases sp' <;> rfl
      · cases sp <;> rfl
    · intro hk
      rw [hstep, beginRequest, hr]
      simp only [hp, Nat.not_lt.mpr hk, if_false, afterAction]
  · intro h
    obtain ⟨u, rest, hr, hp, rfl, _, hstep⟩ := step_of_makesHostAccess h (by rintro w ⟨⟩)
    constructor
    · intro hk
      rw [hstep, beginRequest, hr]
      simp only [hp, hk, if_true, afterAction]
    · intro hk
      rw [hstep, beginRequest, hr]
      simp only [hp, Nat.not_lt.mpr hk, if_false, afterAction]

end Sys2Proof.Machine
end

section
/-! PROOFS. With `spi_fault` set, what would use the bus is refused (R34, R147, R286, R293). -/

namespace Sys2Proof.Machine

/-- A command whose answer leaves the state as it is. -/
theorem answer_unchanged (r : Reply) (s : State) :
    answer (r, s) = .next { s with trace := s.trace ++ [.result r.status r.value] } := rfl

/-- The answer of a command that met a dead bus and changed nothing. -/
theorem answer_transportError (s : State) :
    answer (.transportError, s) = .next { s with trace := s.trace ++ [.result .transportError 0#16] } := rfl

/-- The four operand bytes that name a target of `SetState` (R100, R171). -/
theorem setState_of_target {b : Byte} (hb : b ∈ [5#8, 7#8, 8#8, 10#8]) (s : State) :
    ∃ g, setState b s = enterTarget g s := by
  simp only [List.mem_cons, List.not_mem_nil, or_false] at hb
  rcases hb with rfl | rfl | rfl | rfl
  · exact ⟨.ready, rfl⟩
  · exact ⟨.xmitDirect, rfl⟩
  · exact ⟨.xmitPacket, rfl⟩
  · exact ⟨.recvPacket, rfl⟩

theorem setState_faulted {b : Byte} (hb : b ∈ [5#8, 7#8, 8#8, 10#8]) {s : State} (h : s.spiFault = true) :
    setState b s = (.transportError, s) := by
  obtain ⟨g, e⟩ := setState_of_target hb s
  rw [e, enterTarget_faulted h]

/-- A profile is the entry of its number in the list of the three (R103). -/
theorem Params.profile_eq (p : Params) (k : Byte) :
    p.profile k = [p.profile0, p.profile1, p.profile2][k.toNat]? := by
  unfold Params.profile
  split
  · rfl
  · rfl
  · rfl
  · rename_i h0 h1 h2
    have hk : 3 ≤ k.toNat := by
      by_contra hlt
      have : k.toNat = 0 ∨ k.toNat = 1 ∨ k.toNat = 2 := by omega
      rcases this with e | e | e
      · exact h0 (BitVec.eq_of_toNat_eq e)
      · exact h1 (BitVec.eq_of_toNat_eq e)
      · exact h2 (BitVec.eq_of_toNat_eq e)
    exact (List.getElem?_eq_none hk).symm

section

variable {s : State} (h : s.spiFault = true)

include h

theorem exec_regRead_faulted (a : RegAddr) : exec (.regRead a) s = answer (.transportError, s) := by
  simp only [exec, execRegRead, BusOp.regRead, (busRun_faulted h []).2]

theorem exec_regWrite_faulted (a : RegAddr) (v : Byte) :
    exec (.regWrite a v) s = answer (.transportError, s) := by
  simp only [exec, execRegWrite, BusOp.regWrite, (busRun_faulted h []).1]

theorem exec_radioReset_faulted : exec .radioReset s = answer (.transportError, s) := by
  simp only [exec, execRadioReset, BusOp.regWrite, (busRun_faulted h _).1]

theorem exec_radioCheckId_faulted : exec .radioCheckId s = answer (.transportError, s) := by
  simp only [exec, execRadioCheckId, BusOp.regRead, (busRun_faulted h _).2]

theorem exec_radioSetState_faulted {b : Byte} (hb : b ∈ [5#8, 7#8, 8#8, 10#8]) :
    exec (.radioSetState b) s = answer (.transportError, s) := by
  simp only [exec, execRadioSetState, setState_faulted hb h]

theorem exec_regBurstRead_faulted (a : RegAddr) {n : Byte} (hn : burstCountOk n = true) :
    exec (.regBurstRead a n) s = answer (.transportError, s) := by
  simp only [exec, execRegBurstRead, hn, if_true, (busRun_faulted h []).2]

theorem exec_regBurstWrite_faulted (a : RegAddr) {n : Byte} (hn : burstCountOk n = true) :
    exec (.regBurstWrite a n) s = answer (.transportError, s) := by
  simp only [exec, execRegBurstWrite, hn, if_true, (busRun_faulted h []).1]

theorem exec_radioApplyConfig_faulted {k : Byte} {l : ConfigList} (hl : s.params.profile k = some l) :
    exec (.radioApplyConfig k) s =
      answer (if l = [] then ⟨.ok, 0#16⟩ else .transportError, s) := by
  change execRadioApplyConfig k s = _
  unfold execRadioApplyConfig
  rw [hl]
  cases l with
  | nil => rfl
  | cons e l =>
    have hrun : busRun (configWrites (e :: l)) s = (none, s) := (busRun_faulted h (configWrites l)).1 e.1 [e.2]
    simp only [hrun, List.cons_ne_nil, if_false]

theorem exec_radioLoadPacket_faulted {n : Byte} (hn : n.toNat ≤ 64) :
    exec (.radioLoadPacket n) s = answer (.transportError, s) := by
  have hfits : ¬ Config.fifoCapacity < n.toNat := Nat.not_lt.mpr hn
  simp only [exec, execRadioLoadPacket, hfits, if_false, loadPacketOps, BusOp.regWrite, List.cons_append,
    (busRun_faulted h _).1]

theorem startMode_faulted {m : Mode} (hm : m.setsXmitDirect = true) :
    startMode m s = (.transportError, s) := by
  simp [startMode, hm, enterTarget_faulted h, Reply.transportError]

theorem exec_beaconStart_faulted {b : Byte} {m : Mode} (hb : Mode.ofOperand b = some m)
    (hm : m.setsXmitDirect = true) (hoff : s.beacon.mode = .off) :
    exec (.beaconStart b) s = answer (.transportError, s) := by
  simp only [exec, execBeaconStart, hb, hoff, if_true, startMode_faulted h hm]

end

/-- A count of 1 to 64 is one a burst accepts (R150). -/
theorem burstCountOk_of_bounds {n : Byte} (h1 : 1 ≤ n.toNat) (h64 : n.toNat ≤ 64) : burstCountOk n = true := by
  have hne : n ≠ 0#8 := by
    rintro rfl
    exact absurd h1 (by decide)
  have hle : n.toNat ≤ Config.xferSize := h64
  simp [burstCountOk, hne, hle]

/-- Settles O27: each form begins with a transaction, which a dead bus refuses. -/
theorem spiFaultRefusesTheBus : Obligations.SpiFaultRefusesTheBus := by
  intro s a v h
  refine ⟨?_, ?_, ?_, ?_, ?_, ?_, ?_, ?_⟩
  · intro c hc
    rw [← answer_transportError]
    simp only [List.mem_cons, List.not_mem_nil, or_false] at hc
    rcases hc with rfl | rfl | rfl | rfl | rfl | rfl | rfl | rfl
    · exact exec_regRead_faulted h a
    · exact exec_regWrite_faulted h a v
    · exact exec_radioReset_faulted h
    · exact exec_radioCheckId_faulted h
    all_goals exact exec_radioSetState_faulted h (by decide)
  · intro h1 h64 c hc
    have hn := burstCountOk_of_bounds h1 h64
    rw [← answer_transportError]
    simp only [List.mem_cons, List.not_mem_nil, or_false] at hc
    rcases hc with rfl | rfl
    · exact exec_regBurstRead_faulted h a hn
    · exact exec_regBurstWrite_faulted h a hn
  · intro l hl
    rw [← Params.profile_eq] at hl
    rw [exec_radioApplyConfig_faulted h hl, answer_unchanged]
    split <;> rfl
  · exact fun hn => exec_radioLoadPacket_faulted h hn
  · intro hn
    simp only [exec, execRadioLoadPacket, Config.fifoCapacity, hn, if_true]
    rfl
  · exact fun m hm hdirect hoff => exec_beaconStart_faulted h hm hdirect hoff
  · intro hv hturns hi hm hservice
    have haction : mainAction s = .done (serviceSetState v s) := by
      simp only [mainAction, mainMicroStep_none.mpr hm, hservice]
    rw [step_eq, nextAction_of_no_turns hturns, afterInterrupts_of_none hi, haction, afterAction,
      serviceSetState, setState_faulted hv (s := s.setService .idle) h]
    rfl
  · intro hone hbyte hv
    rcases execBeaconService_cases s with ⟨he, _⟩ | ⟨_, _, e⟩ | ⟨_, hmicro, _⟩
    · rw [hbyte] at he
      cases he
    · have hfault : (ringPublishTail .rb1 s.rb1.tail s).spiFault = true := h
      change execBeaconService s = _
      rw [e, State.ring_rb1, setState_faulted hv hfault]
      rfl
    · rw [hone] at hmicro
      cases hmicro

end Sys2Proof.Machine
end

section
/-! PROOFS. What a command leaves unchanged (R20, R33, R122, R146). -/

namespace Sys2Proof.Machine

/-! ## Frames of the shared operations -/

theorem busOnly_of_busRun {ops : List BusOp} {s u : State} {x : Option (List Byte)}
    (h : busRun ops s = (x, u)) : BusOnly s u := by
  have hu := busRun_busOnly ops s
  rwa [h] at hu

/-- The outcome is a reply after bus actions alone. -/
def RepliesFromBus (s : State) (o : Host.Outcome State Fault Refusal) : Prop :=
  ∃ u r, BusOnly s u ∧ o = .next (u.finish r)

theorem repliesFromBus_of_busRun {ops : List BusOp} {s u : State} {x : Option (List Byte)} (r : Reply)
    (h : busRun ops s = (x, u)) : RepliesFromBus s (answer (r, u)) := ⟨u, r, busOnly_of_busRun h, rfl⟩

theorem repliesFromBus_refused (r : Reply) (s : State) : RepliesFromBus s (answer (r, s)) :=
  ⟨s, r, .refl s, rfl⟩

/-- What a transition of the radio leaves unchanged: all but the bus and `RadioState` (R33, R171). -/
theorem enterTarget_frame (g : Target) (s : State) : (enterTarget g s).2 = { s with
    radioState := (enterTarget g s).2.radioState
    spiFault := (enterTarget g s).2.spiFault
    trace := (enterTarget g s).2.trace
    env := { s.env with answers := (enterTarget g s).2.env.answers } } := by
  have hq := enterTarget_quiet g s
  have hbeacon := enterTarget_beacon g s
  have hframe := hq.frame
  rwa [hbeacon] at hframe

theorem setState_frame (b : Byte) (s : State) : (setState b s).2 = { s with
    radioState := (setState b s).2.radioState
    spiFault := (setState b s).2.spiFault
    trace := (setState b s).2.trace
    env := { s.env with answers := (setState b s).2.env.answers } } := by
  rcases setState_cases b s with ⟨_, e⟩ | ⟨_, _, _, e⟩ | ⟨_, g, _, _, _, e⟩ <;> rw [e]
  exact enterTarget_frame g s

/-- Only the bus, the timer readings, `RadioState`, the orchestrator's registers and the trace differ (R252, R256). -/
def BeaconOnly (s t : State) : Prop := t = { s with
  radioState := t.radioState, spiFault := t.spiFault, beacon := t.beacon, trace := t.trace
  env := { s.env with answers := t.env.answers, timerReads := t.env.timerReads } }

theorem BeaconOnly.refl (s : State) : BeaconOnly s s := Eq.refl s

theorem BeaconOnly.trans {s t u : State} (h : BeaconOnly s t) (k : BeaconOnly t u) : BeaconOnly s u := by
  unfold BeaconOnly at k
  rw [h] at k
  exact k

theorem Quiet.beaconOnly {s t : State} (q : Quiet s t) : BeaconOnly s t := by
  have hreads : t.env.timerReads = s.env.timerReads := by rw [q.frame]
  unfold BeaconOnly
  rw [hreads]
  exact q.frame

theorem Started.beaconOnly {m : Mode} {s t : State} (k : Started m s t) : BeaconOnly s t := by
  have hradio : t.radioState = s.radioState := by rw [k.frame]
  have hspi : t.spiFault = s.spiFault := by rw [k.frame]
  have hanswers : t.env.answers = s.env.answers := by rw [k.frame]
  unfold BeaconOnly
  rw [hradio, hspi, hanswers]
  exact k.frame

theorem startMode_beaconOnly (m : Mode) (s : State) : BeaconOnly s (startMode m s).2 := by
  rcases startMode_cases m s with ⟨u, hu, _, e⟩ | ⟨u, hu, _, _, e⟩ <;> rw [e]
  · exact hu.quiet.beaconOnly
  · exact hu.beaconOnly.trans (started m u).beaconOnly

theorem BeaconOnly.finish {s t : State} (h : BeaconOnly s t) (r : Reply) : BeaconOnly s (t.finish r) :=
  congrArg (State.finish · r) h

theorem mainPutCheck_frame (i : RingId) (b : Byte) (s : State) : mainPutCheck i b s = { s with
    mainRb := (mainPutCheck i b s).mainRb, trace := (mainPutCheck i b s).trace } := by
  unfold mainPutCheck
  split <;> rfl

theorem mainGetCheck_frame (i : RingId) (s : State) : mainGetCheck i s = { s with
    mainRb := (mainGetCheck i s).mainRb, trace := (mainGetCheck i s).trace } := by
  unfold mainGetCheck
  split <;> rfl

/-! ## Frames of the commands -/

/-- The outcome of a command, as the state it leads to. -/
theorem eq_of_exec {i : Instr} {s t u : State} (h : exec i s = .next t) (hu : exec i s = .next u) : t = u :=
  Host.Outcome.next.inj (h.symm.trans hu)

section

variable {i : Instr} {s t : State}

theorem exec_checkStep_frame (hi : (∃ k b, i = .rbPut k b) ∨ ∃ k, i = .rbGet k) (h : exec i s = .next t) :
    t = { s with mainRb := t.mainRb, trace := t.trace } := by
  rcases hi with ⟨k, b, rfl⟩ | ⟨k, rfl⟩
  · cases h
    cases RingId.ofByte k with
    | none => rfl
    | some id => exact mainPutCheck_frame id b s
  · cases h
    cases RingId.ofByte k with
    | none => rfl
    | some id => exact mainGetCheck_frame id s

theorem exec_service_microSteps_frame (hr : s.params.serviceReading = .microSteps)
    (h : exec .beaconService s = .next t) :
    t = { s with mainRb := t.mainRb, service := t.service, trace := t.trace } := by
  rcases execBeaconService_cases s with ⟨_, e⟩ | ⟨_, hone, _⟩ | ⟨_, _, e⟩
  · cases eq_of_exec h e
    rfl
  · rw [hr] at hone
    cases hone
  · cases eq_of_exec h e
    rfl

theorem exec_service_oneStep_frame (hr : s.params.serviceReading = .oneStep)
    (h : exec .beaconService s = .next t) :
    t = { s with
      rb1 := { s.rb1 with tail := t.rb1.tail }
      radioState := t.radioState, spiFault := t.spiFault, trace := t.trace
      env := { s.env with answers := t.env.answers } } := by
  rcases execBeaconService_cases s with ⟨_, e⟩ | ⟨_, _, e⟩ | ⟨_, hmicro, _⟩
  · cases eq_of_exec h e
    rfl
  · rw [answer_next] at e
    cases eq_of_exec h e
    have hframe := setState_frame (s.ringByte .rb1 (s.ring .rb1).tail) (ringPublishTail .rb1 (s.ring .rb1).tail s)
    generalize setState (s.ringByte .rb1 (s.ring .rb1).tail) (ringPublishTail .rb1 (s.ring .rb1).tail s) = x
      at hframe ⊢
    rw [hframe]
    rfl
  · rw [hr] at hmicro
    cases hmicro

theorem exec_query_frame
    (hi : (∃ k, i = .rbLen k) ∨ (∃ k n, i = .rbPeek k n) ∨ (∃ k, i = .rbIsFull k) ∨ (∃ k, i = .rbIsEmpty k) ∨
      (∃ k, i = .beaconStatus k)) (h : exec i s = .next t) : t = { s with trace := t.trace } := by
  rcases hi with ⟨k, rfl⟩ | ⟨k, n, rfl⟩ | ⟨k, rfl⟩ | ⟨k, rfl⟩ | ⟨k, rfl⟩ <;> cases h <;> rfl

/-- The register, radio and packet commands reply after bus actions alone (R146, R164 to R182). -/
theorem exec_repliesFromBus
    (hi : (∃ a, i = .regRead a) ∨ (∃ a v, i = .regWrite a v) ∨ (∃ a n, i = .regBurstWrite a n) ∨
      i = .radioReset ∨ i = .radioCheckId ∨ (∃ k, i = .radioApplyConfig k) ∨ (∃ n, i = .radioLoadPacket n))
    (s : State) : RepliesFromBus s (exec i s) := by
  rcases hi with ⟨a, rfl⟩ | ⟨a, v, rfl⟩ | ⟨a, n, rfl⟩ | rfl | rfl | ⟨k, rfl⟩ | ⟨n, rfl⟩
  · change RepliesFromBus s (execRegRead a s)
    unfold execRegRead
    split <;> exact repliesFromBus_of_busRun _ ‹_›
  · change RepliesFromBus s (execRegWrite a v s)
    unfold execRegWrite
    split <;> exact repliesFromBus_of_busRun _ ‹_›
  · change RepliesFromBus s (execRegBurstWrite a n s)
    unfold execRegBurstWrite
    split
    · split <;> exact repliesFromBus_of_busRun _ ‹_›
    · exact repliesFromBus_refused _ s
  · change RepliesFromBus s (execRadioReset s)
    unfold execRadioReset
    dsimp only
    split <;> exact repliesFromBus_of_busRun _ ‹_›
  · change RepliesFromBus s (execRadioCheckId s)
    unfold execRadioCheckId
    dsimp only
    split <;> exact repliesFromBus_of_busRun _ ‹_›
  · change RepliesFromBus s (execRadioApplyConfig k s)
    unfold execRadioApplyConfig
    split
    · exact repliesFromBus_refused _ s
    · split <;> exact repliesFromBus_of_busRun _ ‹_›
  · change RepliesFromBus s (execRadioLoadPacket n s)
    unfold execRadioLoadPacket
    split
    · exact repliesFromBus_refused _ s
    · split <;> exact repliesFromBus_of_busRun _ ‹_›

theorem exec_bus_frame
    (hi : (∃ a, i = .regRead a) ∨ (∃ a v, i = .regWrite a v) ∨ (∃ a n, i = .regBurstWrite a n) ∨
      i = .radioReset ∨ i = .radioCheckId ∨ (∃ k, i = .radioApplyConfig k) ∨ (∃ n, i = .radioLoadPacket n))
    (h : exec i s = .next t) :
    t = { s with
      spiFault := t.spiFault, trace := t.trace, env := { s.env with answers := t.env.answers } } := by
  obtain ⟨u, r, hu, e⟩ := exec_repliesFromBus hi s
  cases eq_of_exec h e
  exact congrArg (State.finish · r) hu.frame

theorem exec_burstRead_frame {a : RegAddr} {n : Byte} (h : exec (.regBurstRead a n) s = .next t) :
    t = { s with
      xfer := t.xfer, spiFault := t.spiFault, trace := t.trace
      env := { s.env with answers := t.env.answers } } := by
  have hcases : exec (.regBurstRead a n) s = .next t → ∃ (u : State) (m : Memory) (r : Reply), BusOnly s u ∧
      t = (u.setXfer m).finish r := by
    change execRegBurstRead a n s = .next t → _
    unfold execRegBurstRead
    split
    · split
      · rintro ⟨⟩
        exact ⟨_, _, _, busOnly_of_busRun ‹_›, rfl⟩
      · rintro ⟨⟩
        exact ⟨_, _, _, busOnly_of_busRun ‹_›, rfl⟩
    · rintro ⟨⟩
      exact ⟨s, s.xfer, .illegalOperand, .refl s, rfl⟩
  obtain ⟨u, m, r, hu, rfl⟩ := hcases h
  exact congrArg (fun v : State => (v.setXfer m).finish r) hu.frame

theorem exec_setState_frame {b : Byte} (h : exec (.radioSetState b) s = .next t) :
    t = { s with
      radioState := t.radioState, spiFault := t.spiFault, trace := t.trace
      env := { s.env with answers := t.env.answers } } := by
  cases h
  exact congrArg (State.finish · (setState b s).1) (setState_frame b s)

theorem exec_morse_frame (hi : (∃ n, i = .morseStart n) ∨ i = .morseTick) (h : exec i s = .next t) :
    t = { s with morse := t.morse, trace := t.trace } := by
  rcases hi with ⟨n, rfl⟩ | rfl
  · cases h
    split <;> rfl
  · cases h
    rfl

theorem exec_pn_frame (hi : (∃ n, i = .pnInit n) ∨ i = .pnTick) (h : exec i s = .next t) :
    t = { s with pn := t.pn, trace := t.trace } := by
  rcases hi with ⟨n, rfl⟩ | rfl
  · cases h
    split <;> rfl
  · cases h
    rfl

theorem exec_startStop_beaconOnly (hi : (∃ m, i = .beaconStart m) ∨ i = .beaconStop) (h : exec i s = .next t) :
    BeaconOnly s t := by
  rcases hi with ⟨m, rfl⟩ | rfl
  · cases h
    split
    · exact (BeaconOnly.refl s).finish _
    · split
      · exact (startMode_beaconOnly _ s).finish _
      · exact (BeaconOnly.refl s).finish _
  · cases h
    exact (stopAction_quiet s).beaconOnly.finish _

end

/-! ## Memory bytes -/

/-- A frame that holds the four memories and the epoch holds every byte. -/
theorem readByte_of_frame {s t u : State} (h : t = u) (hmemory : u.memory = s.memory) (hepoch : u.epoch = s.epoch)
    (sp : Space) (k : Nat) : t.readByte sp k = s.readByte sp k := by
  rw [h, State.readByte, State.readByte, hmemory, hepoch]

/-- No command but REG_BURST_READ changes a byte, and that one only XFER (R122, R150). -/
theorem exec_readByte {i : Instr} {s t : State} (h : exec i s = .next t) (sp : Space) (k : Nat) :
    (∃ a n, i = .regBurstRead a n) ∧ sp = .xfer ∨ t.readByte sp k = s.readByte sp k := by
  cases i with
  | rbPut j b => exact .inr (readByte_of_frame (exec_checkStep_frame (by simp) h) rfl rfl sp k)
  | rbGet j => exact .inr (readByte_of_frame (exec_checkStep_frame (by simp) h) rfl rfl sp k)
  | rbLen | rbPeek | rbIsFull | rbIsEmpty | beaconStatus =>
    exact .inr (readByte_of_frame (exec_query_frame (by simp) h) rfl rfl sp k)
  | regRead | regWrite | regBurstWrite | radioReset | radioCheckId | radioApplyConfig | radioLoadPacket =>
    exact .inr (readByte_of_frame (exec_bus_frame (by simp) h) rfl rfl sp k)
  | regBurstRead a n =>
    by_cases hsp : sp = .xfer
    · exact .inl ⟨⟨a, n, rfl⟩, hsp⟩
    · right
      rw [exec_burstRead_frame h]
      cases sp with
      | xfer => exact absurd rfl hsp
      | rb0 | rb1 | msg => rfl
  | radioSetState b => exact .inr (readByte_of_frame (exec_setState_frame h) rfl rfl sp k)
  | morseStart | morseTick => exact .inr (readByte_of_frame (exec_morse_frame (by simp) h) rfl rfl sp k)
  | pnInit | pnTick => exact .inr (readByte_of_frame (exec_pn_frame (by simp) h) rfl rfl sp k)
  | beaconStart | beaconStop =>
    exact .inr (readByte_of_frame (exec_startStop_beaconOnly (by simp) h) rfl rfl sp k)
  | beaconService =>
    cases hr : s.params.serviceReading with
    | oneStep => exact .inr (readByte_of_frame (exec_service_oneStep_frame hr h) rfl rfl sp k)
    | microSteps => exact .inr (readByte_of_frame (exec_service_microSteps_frame hr h) rfl rfl sp k)

/-- Settles O60: each family by the frame of its commands. -/
theorem commandFrames : Obligations.CommandFrames := by
  intro i s t h
  refine ⟨fun hi => exec_checkStep_frame hi h, ?_, ?_, fun hi => exec_query_frame hi h,
    fun hi => exec_bus_frame hi h, ?_, ?_, fun hi => exec_morse_frame hi h, fun hi => exec_pn_frame hi h,
    fun hi => exec_startStop_beaconOnly hi h, fun sp k => exec_readByte h sp k⟩
  · rintro rfl hr
    exact exec_service_microSteps_frame hr h
  · rintro rfl hr
    exact exec_service_oneStep_frame hr h
  · rintro ⟨a, n, rfl⟩
    exact exec_burstRead_frame h
  · rintro ⟨b, rfl⟩
    exact exec_setState_frame h

end Sys2Proof.Machine
end

section
/-! PROOFS. The CMP_A handler (R264, R295, R297, R298, R299): what the generator gives at a tick decides what the
handler does, which is either to deliver one key value and go on, or to stop the beacon. -/

namespace Sys2Proof.Machine

/-! ## The tick -/

/-- What the handler does once the generator has been stepped (R297, R299). -/
def Tick.deliver (k : Tick) (u : State) : State :=
  match k with
  | .stop => handlerStop u
  | .key b f => reprogramA (keySink b (u.raiseFlag f))

@[simp] theorem State.raiseFlag_zero (s : State) : s.raiseFlag 0x00#8 = s := by
  simp [State.raiseFlag, Beacon.raise, State.setBeacon]

/-- A tick changes the generator of the mode alone. -/
theorem CmpATick.frame {s u : State} {k : Tick} (h : CmpATick s k u) :
    ∃ r m p, u = { s with rb0 := r, morse := m, pn := p } := by
  cases h <;> exact ⟨_, _, _, rfl⟩

/-- What `MORSE_TICK` answers is what one `MorseStep` gives. -/
theorem morseStep_of_exec {s : State} {m : Morse} {st : Status} {v : Half}
    (h : exec .morseTick s = .next { s with morse := m, trace := s.trace ++ [.result st v] }) :
    s.morseStep.1.reply = ⟨st, v⟩ ∧ s.morseStep.2 = { s with morse := m } := by
  have hnext : s.morseStep.2.finish s.morseStep.1.reply =
      { s with morse := m, trace := s.trace ++ [.result st v] } := Host.Outcome.next.inj h
  have hevent := congrArg (fun t : State => t.trace) hnext
  have hmorse := congrArg (fun t : State => t.morse) hnext
  constructor
  · have hlast : TraceEvent.result s.morseStep.1.reply.status s.morseStep.1.reply.value = .result st v :=
      (List.cons.inj (List.append_cancel_left hevent)).1
    cases hr : s.morseStep.1.reply
    rw [hr] at hlast
    cases hlast
    rfl
  · exact congrArg (fun m : Morse => { s with morse := m }) hmorse

/-- A Morse step that answers `Ok` gives the key state of that code (R205). -/
theorem MorseOutcome.reply_key {o : MorseOutcome} {v : Half} (h : o.reply = ⟨.ok, v⟩) :
    ∃ k : KeyState, o = .key k ∧ v = zext16 k.code := by
  cases o with
  | key k =>
    cases h
    exact ⟨k, rfl, rfl⟩
  | invalid c => cases h

theorem MorseOutcome.reply_invalid {o : MorseOutcome} {v : Half} (h : o.reply = ⟨.invalidCharacter, v⟩) :
    ∃ c, o = .invalid c := by
  cases o with
  | key k => cases h
  | invalid c => exact ⟨c, rfl⟩

/-- Key states have distinct codes (R101). -/
theorem KeyState.eq_of_code {j k : KeyState} (h : zext16 j.code = zext16 k.code) : j = k := by
  revert h
  cases j <;> cases k <;> decide

/-- An active Morse generator that gives a key state, and the state its step leaves. -/
theorem morseStep_key {s : State} {m : Morse} (k : KeyState)
    (h : exec .morseTick s = .next { s with morse := m, trace := s.trace ++ [.result .ok (zext16 k.code)] }) :
    s.morseStep = (.key k, { s with morse := m }) := by
  obtain ⟨hreply, hstate⟩ := morseStep_of_exec h
  obtain ⟨j, hj, hcode⟩ := MorseOutcome.reply_key hreply
  rw [KeyState.eq_of_code hcode]
  exact Prod.ext hj hstate

theorem handlerCmpA_morse {s : State} (hm : s.beacon.mode = .morseDirect ∨ s.beacon.mode = .morsePacket) :
    handlerCmpA s = tickMorse s := by
  rcases hm with e | e <;> simp only [handlerCmpA, e]

theorem handlerCmpA_pn {s : State} (hm : s.beacon.mode = .pnDirect ∨ s.beacon.mode = .pnPacket) :
    handlerCmpA s = tickPn s := by
  rcases hm with e | e <;> simp only [handlerCmpA, e]

theorem handlerCmpA_queue {s : State} (hm : s.beacon.mode = .queueDirect) : handlerCmpA s = tickQueue s := by
  simp only [handlerCmpA, hm]

/-- A PN step returns its chip in bit 0 of the value of `PN_TICK` (R237). -/
theorem pnStep_of_exec {s : State} {g : Pn} {v : Half}
    (h : exec .pnTick s = .next { s with pn := g, trace := s.trace ++ [.result .ok v] }) :
    s.pnStep = (v.getLsbD 0, { s with pn := g }) := by
  have hnext : s.pnStep.2.finish ⟨.ok, pnTickValue s.pnStep.1 s.pnStep.2.pn.complete⟩ =
      { s with pn := g, trace := s.trace ++ [.result .ok v] } := Host.Outcome.next.inj h
  have hevent := congrArg (fun t : State => t.trace) hnext
  have hpn := congrArg (fun t : State => t.pn) hnext
  have hlast : TraceEvent.result .ok (pnTickValue s.pnStep.1 s.pnStep.2.pn.complete) = .result .ok v :=
    (List.cons.inj (List.append_cancel_left hevent)).1
  have hvalue : pnTickValue s.pnStep.1 s.pnStep.2.pn.complete = v := (TraceEvent.result.inj hlast).2
  have hchip : ∀ chip complete, (pnTickValue chip complete).getLsbD 0 = chip := by decide
  refine Prod.ext ?_ (congrArg (fun g : Pn => { s with pn := g }) hpn)
  rw [← hvalue, hchip]

theorem KeyState.ofByte_eq (v : Byte) : KeyState.ofByte v =
    if v = 0#8 then some .off else if v = 1#8 then some .on else if v = 2#8 then some .done else none := by
  unfold KeyState.ofByte
  split
  · rfl
  · rfl
  · rfl
  · rename_i h0 h1 h2
    rw [if_neg h0, if_neg h1, if_neg h2]

/-- The symbol a byte of the queue stands for at a tick (R101, R297). -/
theorem tickQueue_byte {s : State} (he : s.isEmpty .rb0 = false) : tickQueue s =
    Tick.deliver
      (if s.ringByte .rb0 s.rb0.tail = 0#8 then .key false 0x00#8
        else if s.ringByte .rb0 s.rb0.tail = 1#8 then .key true 0x00#8
        else if s.ringByte .rb0 s.rb0.tail = 2#8 then .stop else .key false 0x01#8)
      { s with rb0 := { s.rb0 with tail := addW s.params.rbW s.rb0.tail 1 } } := by
  have hget : ringGet .rb0 s = some (s.ringByte .rb0 s.rb0.tail,
      { s with rb0 := { s.rb0 with tail := addW s.params.rbW s.rb0.tail 1 } }) := by
    rcases ringGet_cases .rb0 s with ⟨hempty, _⟩ | ⟨_, e⟩
    · rw [he] at hempty
      cases hempty
    · exact e
  unfold tickQueue
  rw [hget]
  simp only [KeyState.ofByte_eq]
  split_ifs
  · simp only [Tick.deliver, State.raiseFlag_zero]
  · simp only [Tick.deliver, State.raiseFlag_zero]
  · simp only [Tick.deliver]
  · simp only [Tick.deliver, flagUnderrun]

/-- The handler does what the tick says. -/
theorem handlerCmpA_of_tick {s u : State} {k : Tick} (h : CmpATick s k u) : handlerCmpA s = k.deliver u := by
  cases h with
  | morseIdle hm ha => simp only [handlerCmpA_morse hm, tickMorse, ha, Tick.deliver, Bool.false_eq_true, if_false]
  | morseDone hm ha m h =>
    simp only [handlerCmpA_morse hm, tickMorse, ha, if_true, morseStep_key .done h, Tick.deliver]
  | morseOn hm ha m h =>
    simp only [handlerCmpA_morse hm, tickMorse, ha, if_true, morseStep_key .on h, Tick.deliver,
      State.raiseFlag_zero]
  | morseOff hm ha m h =>
    simp only [handlerCmpA_morse hm, tickMorse, ha, if_true, morseStep_key .off h, Tick.deliver,
      State.raiseFlag_zero]
  | morseInvalid hm ha m c h =>
    obtain ⟨hreply, hstate⟩ := morseStep_of_exec h
    obtain ⟨d, hd⟩ := MorseOutcome.reply_invalid hreply
    have hstep : s.morseStep = (.invalid d, { s with morse := m }) := Prod.ext hd hstate
    simp only [handlerCmpA_morse hm, tickMorse, ha, if_true, hstep, Tick.deliver, flagInvalidChar]
  | pnComplete hm hc => simp only [handlerCmpA_pn hm, tickPn, hc, if_true, Tick.deliver]
  | pnChip hm hc g v h =>
    simp only [handlerCmpA_pn hm, tickPn, hc, Bool.false_eq_true, if_false, pnStep_of_exec h, Tick.deliver,
      State.raiseFlag_zero]
  | queueEmpty hm he =>
    have hget : ringGet .rb0 s = none := by simp only [ringGet, he, if_true]
    simp only [handlerCmpA_queue hm, tickQueue, hget, Tick.deliver, flagUnderrun]
  | queueByte hm he v k hv hk =>
    rw [handlerCmpA_queue hm, tickQueue_byte he, hk, hv]

/-- A mode that ticks has a tick in every state. -/
theorem exists_cmpATick {s : State} (h : s.beacon.mode.ticksOnA = true) : ∃ k u, CmpATick s k u := by
  have morse : s.beacon.mode = .morseDirect ∨ s.beacon.mode = .morsePacket → ∃ k u, CmpATick s k u := by
    intro hm
    cases ha : s.morse.active with
    | false => exact ⟨_, _, .morseIdle hm ha⟩
    | true =>
      have hexec : exec .morseTick s = .next { s with
        morse := s.morseStep.2.morse
        trace := s.trace ++ [.result s.morseStep.1.reply.status s.morseStep.1.reply.value] } := rfl
      cases ho : s.morseStep.1 with
      | key k =>
        rw [ho] at hexec
        cases k with
        | off => exact ⟨_, _, .morseOff hm ha _ hexec⟩
        | on => exact ⟨_, _, .morseOn hm ha _ hexec⟩
        | done => exact ⟨_, _, .morseDone hm ha _ hexec⟩
      | invalid c =>
        rw [ho] at hexec
        exact ⟨_, _, .morseInvalid hm ha _ _ hexec⟩
  have pn : s.beacon.mode = .pnDirect ∨ s.beacon.mode = .pnPacket → ∃ k u, CmpATick s k u := by
    intro hm
    cases hc : s.pn.complete with
    | true => exact ⟨_, _, .pnComplete hm hc⟩
    | false => exact ⟨_, _, .pnChip hm hc s.pnStep.2.pn _ rfl⟩
  cases hm : s.beacon.mode with
  | morseDirect => exact morse (.inl hm)
  | morsePacket => exact morse (.inr hm)
  | pnDirect => exact pn (.inl hm)
  | pnPacket => exact pn (.inr hm)
  | queueDirect =>
    cases he : s.isEmpty .rb0 with
    | true => exact ⟨_, _, .queueEmpty hm he⟩
    | false => exact ⟨_, _, .queueByte hm he _ _ rfl rfl⟩
  | off | tone | packet =>
    rw [hm] at h
    cases h

theorem handlerCmpA_of_not_ticking {s : State} (h : s.beacon.mode.ticksOnA = false) : handlerCmpA s = s := by
  cases hm : s.beacon.mode with
  | off | tone | packet => simp only [handlerCmpA, hm]
  | morseDirect | morsePacket | pnDirect | pnPacket | queueDirect =>
    rw [hm] at h
    cases h

/-! ## The key sink (R298) -/

theorem keySink_pin {u : State} (b : Bool) (hm : u.beacon.mode.keysPin = true) : keySink b u = u.driveData b := by
  simp only [keySink, hm, if_true]

/-- No mode keys both the pin and the queue (R251). -/
theorem keysPin_of_keysQueue {m : Mode} (h : m.keysQueue = true) : m.keysPin = false := by
  revert h
  cases m <;> decide

theorem keySink_queue {u : State} (b : Bool) (hm : u.beacon.mode.keysQueue = true) :
    keySink b u = queueKey b u := by
  simp only [keySink, keysPin_of_keysQueue hm, hm, Bool.false_eq_true, if_true, if_false]

theorem queueKey_same {u : State} {b : Bool} (h : b = u.beacon.lastKey) : queueKey b u = u := by
  simp only [queueKey, h, if_true]

theorem queueKey_room {u : State} {b : Bool} (h : b ≠ u.beacon.lastKey) (hroom : u.isFull .rb1 = false) :
    queueKey b u = { u with
      rb1 := u.rb1.pushed u.params .rb1 (requestByte b), beacon := { u.beacon with lastKey := b } } := by
  rcases ringPut_cases .rb1 (requestByte b) u with ⟨hfull, _⟩ | ⟨_, e⟩
  · rw [hroom] at hfull
    cases hfull
  · simp only [queueKey, h, if_false, e]
    rfl

theorem queueKey_full {u : State} {b : Bool} (h : b ≠ u.beacon.lastKey) (hfull : u.isFull .rb1 = true) :
    queueKey b u = u.raiseFlag flagReqOverrun := by
  rcases ringPut_cases .rb1 (requestByte b) u with ⟨_, e⟩ | ⟨hroom, _⟩
  · simp only [queueKey, h, if_false, e]
  · rw [hroom] at hfull
    cases hfull

/-- A value keyed in a direct mode (R264, R298). -/
theorem deliver_pin {u : State} (b : Bool) (f : Byte) (hm : u.beacon.mode.keysPin = true) :
    Tick.deliver (.key b f) u = { u with
      beacon := { u.beacon with
        dataPin := b, flags := u.beacon.flags ||| f
        ccrA := addW u.params.timerW u.beacon.ccrA u.params.tickPeriod }
      trace := u.trace ++
        [.pin .data b, .ccr .a (addW u.params.timerW u.beacon.ccrA u.params.tickPeriod)] } := by
  rw [Tick.deliver, keySink_pin (u := u.raiseFlag f) b hm]
  simp [reprogramA, State.driveData, State.writeCcrA, State.emit, State.setBeacon, State.raiseFlag, Beacon.raise]

/-- A packet tick that repeats the value queued last queues nothing (R298). -/
theorem deliver_same {u : State} {b : Bool} (f : Byte) (hm : u.beacon.mode.keysQueue = true)
    (hb : b = u.beacon.lastKey) :
    Tick.deliver (.key b f) u = { u with
      beacon := { u.beacon with
        flags := u.beacon.flags ||| f
        ccrA := addW u.params.timerW u.beacon.ccrA u.params.tickPeriod }
      trace := u.trace ++ [.ccr .a (addW u.params.timerW u.beacon.ccrA u.params.tickPeriod)] } := by
  rw [Tick.deliver, keySink_queue (u := u.raiseFlag f) b hm, queueKey_same (u := u.raiseFlag f) hb]
  rfl

/-- A packet tick that changes the value queues its request when there is room (R298). -/
theorem deliver_queued {u : State} {b : Bool} (f : Byte) (hm : u.beacon.mode.keysQueue = true)
    (hb : b ≠ u.beacon.lastKey) (hroom : u.isFull .rb1 = false) :
    Tick.deliver (.key b f) u = { u with
      rb1 := u.rb1.pushed u.params .rb1 (requestByte b)
      beacon := { u.beacon with
        lastKey := b, flags := u.beacon.flags ||| f
        ccrA := addW u.params.timerW u.beacon.ccrA u.params.tickPeriod }
      trace := u.trace ++ [.ccr .a (addW u.params.timerW u.beacon.ccrA u.params.tickPeriod)] } := by
  rw [Tick.deliver, keySink_queue (u := u.raiseFlag f) b hm, queueKey_room (u := u.raiseFlag f) hb hroom]
  rfl

/-- With the queue full the request is lost, and `req_overrun` says so (R37, R298). -/
theorem deliver_full {u : State} {b : Bool} (f : Byte) (hm : u.beacon.mode.keysQueue = true)
    (hb : b ≠ u.beacon.lastKey) (hfull : u.isFull .rb1 = true) :
    Tick.deliver (.key b f) u = { u with
      beacon := { u.beacon with
        flags := u.beacon.flags ||| f ||| flagReqOverrun
        ccrA := addW u.params.timerW u.beacon.ccrA u.params.tickPeriod }
      trace := u.trace ++ [.ccr .a (addW u.params.timerW u.beacon.ccrA u.params.tickPeriod)] } := by
  rw [Tick.deliver, keySink_queue (u := u.raiseFlag f) b hm, queueKey_full (u := u.raiseFlag f) hb hfull]
  rfl

/-- Whatever the key sink does, the mode and the compare register of channel A stay. -/
theorem keySink_keeps (b : Bool) (u : State) :
    (keySink b u).params = u.params ∧ (keySink b u).beacon.mode = u.beacon.mode ∧
      (keySink b u).beacon.ccrA = u.beacon.ccrA := by
  unfold keySink queueKey
  split
  · exact ⟨rfl, rfl, rfl⟩
  · split
    · split
      · exact ⟨rfl, rfl, rfl⟩
      · rcases ringPut_cases .rb1 (requestByte b) u with ⟨_, e⟩ | ⟨_, e⟩ <;> rw [e] <;> exact ⟨rfl, rfl, rfl⟩
    · exact ⟨rfl, rfl, rfl⟩

/-! ## The stop action (R256, R299) -/

/-- The state the stop action leaves of `v`, where the transition to Ready has ended (R256). -/
def State.stopped (v : State) : State := { v with
  beacon := { v.beacon with mode := .off, dataPin := false, ie := v.beacon.ie &&& 0b0010#4 }
  trace := v.trace ++ [.pin .data false] }

/-- The state an ended transition leaves decides the whole stop: `isr_radio_error` is raised when it failed. -/
theorem handlerStop_of_enterTarget {u v : State} {r : Reply} (h : enterTarget .ready u = (r, v)) :
    handlerStop u = if r.status = .ok then v.stopped else v.stopped.raiseFlag flagIsrRadioError := by
  simp only [handlerStop, stopAction, h, maskAndSilence_eq, State.stopped]

theorem handlerStop_healthy {u : State}
    (h : u.BusHealthy (transitionList u.params u.radioState .ready).length) :
    handlerStop u = (((u.dropAnswers (transitionList u.params u.radioState .ready).length).log
      (writeEvents (transitionList u.params u.radioState .ready))).setRadioState .ready).stopped := by
  rw [handlerStop_of_enterTarget (enterTarget_healthy (n := 0) h), if_pos rfl]
  rfl

theorem handlerStop_failsAt {u : State} {k : Nat} (h : u.FailsAt k)
    (hk : k < (transitionList u.params u.radioState .ready).length) :
    handlerStop u = ((u.afterFailure
      (writeEvents ((transitionList u.params u.radioState .ready).take (k + 1))) (k + 1)).stopped).raiseFlag
        flagIsrRadioError := by
  rw [handlerStop_of_enterTarget (enterTarget_failsAt h hk), if_neg (by decide)]

theorem handlerStop_faulted {u : State} (h : u.spiFault = true) :
    handlerStop u = u.stopped.raiseFlag flagIsrRadioError := by
  rw [handlerStop_of_enterTarget (enterTarget_faulted h .ready), if_neg (by decide)]

/-- The bus is dead, or it answers the next `n` transactions, or it fails one of them (R147). -/
theorem bus_cases (s : State) (n : Nat) :
    s.spiFault = true ∨ s.BusHealthy n ∨ ∃ k < n, s.FailsAt k := by
  induction n with
  | zero =>
    cases hf : s.spiFault with
    | true => exact .inl rfl
    | false => exact .inr (.inl ⟨hf, by simp⟩)
  | succ n ih =>
    rcases ih with hdead | ⟨hf, hfine⟩ | ⟨k, hk, hfails⟩
    · exact .inl hdead
    · right
      by_cases hn : ∃ a, s.env.answers[n]? = some a ∧ a.fails = true
      · exact .inr ⟨n, Nat.lt_succ_self n, hf, hfine, hn⟩
      · refine .inl ⟨hf, fun a ha => ?_⟩
        rw [List.take_add_one, List.mem_append, Option.mem_toList] at ha
        rcases ha with ha | ha
        · exact hfine a ha
        · exact Bool.eq_false_iff.mpr fun hfails => hn ⟨a, ha, hfails⟩
    · exact .inr (.inr ⟨k, Nat.lt_succ_of_lt hk, hfails⟩)

/-! ## What is seen of a tick (R264) -/

/-- The event drives the data pin. -/
def TraceEvent.isPin (e : TraceEvent) : Bool := e == .pin .data true || e == .pin .data false

/-- How often a trace drives the data pin. -/
def pinCount (l : List TraceEvent) : Nat := (l.filter TraceEvent.isPin).length

theorem pinCount_append (l m : List TraceEvent) : pinCount (l ++ m) = pinCount l + pinCount m := by
  simp only [pinCount, List.filter_append, List.length_append]

theorem pinCount_writeEvents (l : ConfigList) : pinCount (writeEvents l) = 0 := by
  have hnil : (writeEvents l).filter TraceEvent.isPin = [] := by
    rw [List.filter_eq_nil_iff]
    intro e he
    obtain ⟨x, _, rfl⟩ := List.mem_map.mp he
    simp [TraceEvent.isPin]
  rw [pinCount, hnil, List.length_nil]

/-- Events before the pin is driven once, of which none drives it. -/
theorem pinCount_stopped {l es : List TraceEvent} (h : pinCount es = 0) :
    pinCount ((l ++ es) ++ [.pin .data false]) = pinCount l + 1 := by
  rw [pinCount_append, pinCount_append, h]
  rfl

/-- The stop action drives the pin once, low, however its transition ends (R256). -/
theorem handlerStop_pinCount (u : State) : pinCount (handlerStop u).trace = pinCount u.trace + 1 := by
  rcases bus_cases u (transitionList u.params u.radioState .ready).length with h | h | ⟨k, hk, h⟩
  · rw [handlerStop_faulted h]
    exact pinCount_append u.trace [.pin .data false]
  · rw [handlerStop_healthy h]
    exact pinCount_stopped (pinCount_writeEvents _)
  · rw [handlerStop_failsAt h hk]
    exact pinCount_stopped (pinCount_writeEvents _)

theorem handlerStop_mode (u : State) : (handlerStop u).beacon.mode = .off := by
  unfold handlerStop stopAction
  dsimp only
  rw [maskAndSilence_eq]
  split <;> rfl

/-- A direct tick drives the pin exactly once, whether it keys a value or stops (R264). -/
theorem Tick.deliver_pinCount (k : Tick) {u : State} (hm : u.beacon.mode.keysPin = true) :
    pinCount (k.deliver u).trace = pinCount u.trace + 1 := by
  cases k with
  | stop => exact handlerStop_pinCount u
  | key b f =>
    have hone : ∀ v, pinCount [.pin .data b, .ccr .a v] = 1 := fun v => by cases b <;> rfl
    rw [deliver_pin b f hm, pinCount_append, hone]

/-- A tick after which the beacon runs on keyed a value: the mode stays and the compare register advances. -/
theorem Tick.deliver_running {k : Tick} {u : State} (h : (k.deliver u).beacon.mode ≠ .off) :
    ∃ b f, k = .key b f ∧ (k.deliver u).beacon.mode = u.beacon.mode ∧
      (k.deliver u).beacon.ccrA = addW u.params.timerW u.beacon.ccrA u.params.tickPeriod := by
  cases k with
  | stop => exact absurd (handlerStop_mode u) h
  | key b f =>
    obtain ⟨hp, hmode, hccr⟩ := keySink_keeps b (u.raiseFlag f)
    refine ⟨b, f, rfl, hmode, ?_⟩
    simp only [Tick.deliver, reprogramA, State.writeCcrA_beacon, hp, hccr]
    rfl

/-- A packet tick that goes on writes the compare register, and queues at most one request (R264, R298). -/
theorem packetTick_queues_at_most_one {u : State} (b : Bool) (f : Byte) (hm : u.beacon.mode.keysQueue = true) :
    (Tick.deliver (.key b f) u).trace = u.trace ++ [.ccr .a (Tick.deliver (.key b f) u).beacon.ccrA] ∧
      ((Tick.deliver (.key b f) u).rb1 = u.rb1 ∨
        u.isFull .rb1 = false ∧ ∃ c, (c = 8#8 ∨ c = 5#8) ∧
          (Tick.deliver (.key b f) u).rb1 = u.rb1.pushed u.params .rb1 c) := by
  by_cases hb : b = u.beacon.lastKey
  · rw [deliver_same f hm hb]
    exact ⟨rfl, .inl rfl⟩
  · cases hfull : u.isFull .rb1 with
    | true =>
      rw [deliver_full f hm hb hfull]
      exact ⟨rfl, .inl rfl⟩
    | false =>
      rw [deliver_queued f hm hb hfull]
      exact ⟨rfl, .inr ⟨rfl, requestByte b, by cases b <;> simp [requestByte], rfl⟩⟩

/-- A mode whose key sink is the pin or the queue ticks on channel A (R251). -/
theorem ticksOnA_of_keys {m : Mode} (h : m.keysPin = true ∨ m.keysQueue = true) : m.ticksOnA = true := by
  revert h
  cases m <;> decide

/-- Taking the CMP_A interrupt in a mode that ticks is one tick, delivered. -/
theorem takeInterrupt_cmpA {s : State} (h : s.beacon.mode.ticksOnA = true) :
    ∃ k r m p, takeInterrupt .cmpA s =
      Tick.deliver k { s.enterHandler .cmpA with rb0 := r, morse := m, pn := p } := by
  have hmode : (s.enterHandler .cmpA).beacon.mode.ticksOnA = true := h
  obtain ⟨k, u, hk⟩ := exists_cmpATick hmode
  have htake : takeInterrupt .cmpA s = k.deliver u := handlerCmpA_of_tick hk
  obtain ⟨r, m, p, rfl⟩ := hk.frame
  exact ⟨k, r, m, p, htake⟩

/-- Settles O54: every state has a tick, the handler delivers it, and what is seen of it follows. -/
theorem cmpATickGivesOneOutputBit : Obligations.CmpATickGivesOneOutputBit := by
  refine ⟨fun s => exists_cmpATick, fun s u b f h => ?_, fun s u h => ?_,
    fun s => handlerCmpA_of_not_ticking, ?_⟩
  · have hbody : handlerBody .cmpA s = Tick.deliver (.key b f) u := handlerCmpA_of_tick h
    obtain ⟨r, m, p, rfl⟩ := h.frame
    rw [hbody]
    exact ⟨fun hm => deliver_pin b f hm, fun hm hb => deliver_same f hm hb,
      fun hm hb hroom => deliver_queued f hm hb hroom, fun hm hb hfull => deliver_full f hm hb hfull⟩
  · have hbody : handlerBody .cmpA s = handlerStop u := handlerCmpA_of_tick h
    obtain ⟨r, m, p, rfl⟩ := h.frame
    rw [hbody]
    exact ⟨fun hbus => handlerStop_healthy hbus, fun k hfails hk => handlerStop_failsAt hfails hk,
      fun hdead => handlerStop_faulted hdead⟩
  · rintro s t rfl
    refine ⟨fun hpin => ?_, fun hticks hrun => ?_, fun hqueue hrun => ?_⟩
    · obtain ⟨k, r, m, p, e⟩ := takeInterrupt_cmpA (ticksOnA_of_keys (.inl hpin))
      have hcount := k.deliver_pinCount (u := { s.enterHandler .cmpA with rb0 := r, morse := m, pn := p }) hpin
      rw [← e] at hcount
      exact hcount.trans (congrArg (· + 1) (pinCount_append s.trace [.irq .cmpA]))
    · obtain ⟨k, r, m, p, e⟩ := takeInterrupt_cmpA hticks
      rw [e] at hrun ⊢
      obtain ⟨_, _, _, hmode, hccr⟩ := Tick.deliver_running hrun
      exact ⟨hmode, hccr⟩
    · obtain ⟨k, r, m, p, e⟩ := takeInterrupt_cmpA (ticksOnA_of_keys (.inr hqueue))
      rw [e] at hrun ⊢
      obtain ⟨b, f, rfl, _, _⟩ := Tick.deliver_running hrun
      obtain ⟨htrace, hrb1⟩ := packetTick_queues_at_most_one b f
        (u := { s.enterHandler .cmpA with rb0 := r, morse := m, pn := p }) hqueue
      refine ⟨htrace.trans (List.append_assoc s.trace [.irq .cmpA] _), hrb1.imp_right ?_⟩
      rintro ⟨hroom, c, hc, hpushed⟩
      refine ⟨c, ?_, hc⟩
      rw [hpushed]
      rcases ringPut_cases .rb1 c s with ⟨hfull, _⟩ | ⟨_, hput⟩
      · exact absurd (hroom.symm.trans hfull) (by decide)
      · exact hput

end Sys2Proof.Machine
end

section
/-! PROOFS. Every command answers in one step, or is a put or get that goes in flight (R69, R70, R90, R131, R280). -/

namespace Sys2Proof.Machine

/-! ## Between a command's first action and its `Result` -/

/-- What a command may do before its `Result`: nothing goes in flight or leaves it, and no `Result` is added
(R69, R90). -/
structure BeforeResult (s t : State) : Prop where
  mainRb : t.mainRb = s.mainRb
  service : t.service = s.service
  addsNoResult : AddsNoResult s t

/-- An update outside `main_rb`, Main's place in `BEACON_SERVICE` and the trace. -/
theorem BeforeResult.of_same {s t : State} (hm : t.mainRb = s.mainRb) (hv : t.service = s.service)
    (ht : t.trace = s.trace) : BeforeResult s t := ⟨hm, hv, [], by simp [ht], by simp⟩

theorem BeforeResult.refl (s : State) : BeforeResult s s := .of_same rfl rfl rfl

theorem BeforeResult.trans {s t u : State} (h : BeforeResult s t) (k : BeforeResult t u) : BeforeResult s u :=
  ⟨k.mainRb.trans h.mainRb, k.service.trans h.service, h.addsNoResult.trans k.addsNoResult⟩

/-- One event that is no `Result`, beside such an update. -/
theorem BeforeResult.of_event {s t : State} {e : TraceEvent} (hm : t.mainRb = s.mainRb)
    (hv : t.service = s.service) (ht : t.trace = s.trace ++ [e]) (he : ∀ st v, e ≠ .result st v) :
    BeforeResult s t :=
  ⟨hm, hv, [e], ht, fun st v hmem => he st v (List.mem_singleton.mp hmem).symm⟩

theorem busRun_beforeResult {ops : List BusOp} {s u : State} {x : Option (List Byte)}
    (h : busRun ops s = (x, u)) : BeforeResult s u := by
  have hbus := busOnly_of_busRun h
  have hadds := busRun_addsNoResult ops s
  rw [h] at hadds
  exact ⟨by rw [hbus.frame], by rw [hbus.frame], hadds⟩

theorem enterTarget_beforeResult (g : Target) (s : State) : BeforeResult s (enterTarget g s).2 := by
  unfold enterTarget
  split
  · rename_i e
    exact (busRun_beforeResult e).trans (.of_same rfl rfl rfl)
  · exact busRun_beforeResult ‹_›

theorem setState_beforeResult (b : Byte) (s : State) : BeforeResult s (setState b s).2 := by
  rcases setState_cases b s with ⟨_, e⟩ | ⟨_, _, _, e⟩ | ⟨_, g, _, _, _, e⟩ <;> rw [e]
  · exact .refl s
  · exact .refl s
  · exact enterTarget_beforeResult g s

theorem stopAction_beforeResult (s : State) : BeforeResult s (stopAction s).2 := by
  refine (enterTarget_beforeResult .ready s).trans ?_
  change BeforeResult _ (maskAndSilence _)
  rw [maskAndSilence_eq]
  exact .of_event (e := .pin .data false) rfl rfl rfl (by simp)

theorem startClear_beforeResult (s : State) : BeforeResult s (startClear s) :=
  .of_event (e := .pin .data false) rfl rfl rfl (by simp)

theorem startChannelB_beforeResult (s : State) : BeforeResult s (startChannelB s) := by
  unfold startChannelB
  split
  · exact .refl s
  · exact .of_event rfl rfl rfl (by simp)

theorem startChannelA_beforeResult (m : Mode) (s : State) : BeforeResult s (startChannelA m s) := by
  unfold startChannelA
  split
  · exact .of_event rfl rfl rfl (by simp)
  · exact .refl s

theorem startEnable_beforeResult (m : Mode) (s : State) : BeforeResult s (startEnable m s) :=
  .of_same rfl rfl rfl

theorem startMode_beforeResult (m : Mode) (s : State) : BeforeResult s (startMode m s).2 := by
  have hradio : BeforeResult s
      (if m.setsXmitDirect then enterTarget .xmitDirect s else (⟨.ok, 0#16⟩, s)).2 := by
    split
    · exact enterTarget_beforeResult .xmitDirect s
    · exact .refl s
  unfold startMode
  generalize (if m.setsXmitDirect then enterTarget .xmitDirect s else (⟨.ok, 0#16⟩, s)) = x at hradio ⊢
  dsimp only
  split
  · exact (((hradio.trans (startClear_beforeResult _)).trans (startChannelB_beforeResult _)).trans
      (startChannelA_beforeResult m _)).trans (startEnable_beforeResult m _)
  · exact hradio

/-! ## The outcomes of a command -/

/-- The outcomes of a command (R69, R131): its reply in the step it begins in, or the check of a put or get
that goes in flight, which a `BEACON_SERVICE` of micro-steps marks as its own (log 10). -/
inductive CommandOutcome (i : Instr) (s : State) : Host.Outcome State Fault Refusal → Prop
  | answers (x : Reply × State) (h : BeforeResult s x.2) : CommandOutcome i s (answer x)
  | inFlight (m : MainRb) (hm : m ≠ .none) (hi : (∃ k b, i = .rbPut k b) ∨ ∃ k, i = .rbGet k) :
      CommandOutcome i s (.next (s.setMainRb m))
  | serviceInFlight (m : MainRb) (hm : m ≠ .none) (hi : i = .beaconService)
      (hr : s.params.serviceReading = .microSteps) :
      CommandOutcome i s (.next ((s.setMainRb m).setService .getting))

/-- A command that only replies. -/
theorem CommandOutcome.replies {i : Instr} {s : State} (r : Reply) : CommandOutcome i s (answer (r, s)) :=
  .answers (r, s) (.refl s)

/-- A command that replies after bus actions alone. -/
theorem CommandOutcome.of_busRun {i : Instr} {s u : State} {ops : List BusOp} {x : Option (List Byte)}
    (r : Reply) (h : busRun ops s = (x, u)) : CommandOutcome i s (answer (r, u)) :=
  .answers (r, u) (busRun_beforeResult h)

theorem execRbPut_outcome (k b : Byte) (s : State) : CommandOutcome (.rbPut k b) s (execRbPut k b s) := by
  unfold execRbPut mainPutCheck
  split
  · exact .replies .illegalOperand
  · split
    · exact .replies ⟨.full, 0#16⟩
    · exact .inFlight _ (by simp) (.inl ⟨k, b, rfl⟩)

theorem execRbGet_outcome (k : Byte) (s : State) : CommandOutcome (.rbGet k) s (execRbGet k s) := by
  unfold execRbGet mainGetCheck
  split
  · exact .replies .illegalOperand
  · split
    · exact .replies ⟨.empty, 0#16⟩
    · exact .inFlight _ (by simp) (.inr ⟨k, rfl⟩)

theorem execRegRead_outcome (a : RegAddr) (s : State) : CommandOutcome (.regRead a) s (execRegRead a s) := by
  unfold execRegRead
  split <;> exact .of_busRun _ ‹_›

theorem execRegWrite_outcome (a : RegAddr) (v : Byte) (s : State) :
    CommandOutcome (.regWrite a v) s (execRegWrite a v s) := by
  unfold execRegWrite
  split <;> exact .of_busRun _ ‹_›

theorem execRegBurstRead_outcome (a : RegAddr) (n : Byte) (s : State) :
    CommandOutcome (.regBurstRead a n) s (execRegBurstRead a n s) := by
  unfold execRegBurstRead
  split
  · split
    · rename_i e
      exact .answers _ ((busRun_beforeResult e).trans (.of_same rfl rfl rfl))
    · exact .of_busRun _ ‹_›
  · exact .replies _

theorem execRegBurstWrite_outcome (a : RegAddr) (n : Byte) (s : State) :
    CommandOutcome (.regBurstWrite a n) s (execRegBurstWrite a n s) := by
  unfold execRegBurstWrite
  split
  · split <;> exact .of_busRun _ ‹_›
  · exact .replies _

theorem execRadioReset_outcome (s : State) : CommandOutcome .radioReset s (execRadioReset s) := by
  unfold execRadioReset
  dsimp only
  split <;> exact .of_busRun _ ‹_›

theorem execRadioCheckId_outcome (s : State) : CommandOutcome .radioCheckId s (execRadioCheckId s) := by
  unfold execRadioCheckId
  dsimp only
  split <;> exact .of_busRun _ ‹_›

theorem execRadioApplyConfig_outcome (k : Byte) (s : State) :
    CommandOutcome (.radioApplyConfig k) s (execRadioApplyConfig k s) := by
  unfold execRadioApplyConfig
  split
  · exact .replies _
  · split <;> exact .of_busRun _ ‹_›

theorem execRadioLoadPacket_outcome (n : Byte) (s : State) :
    CommandOutcome (.radioLoadPacket n) s (execRadioLoadPacket n s) := by
  unfold execRadioLoadPacket
  split
  · exact .replies _
  · split <;> exact .of_busRun _ ‹_›

theorem execMorseStart_outcome (len : Half) (s : State) :
    CommandOutcome (.morseStart len) s (execMorseStart len s) := by
  unfold execMorseStart
  split
  · exact .replies _
  · exact .answers _ (.of_same rfl rfl rfl)

theorem execPnInit_outcome (seed : Half) (s : State) : CommandOutcome (.pnInit seed) s (execPnInit seed s) := by
  unfold execPnInit
  split
  · exact .replies _
  · exact .answers _ (.of_same rfl rfl rfl)

theorem execBeaconStart_outcome (m : Byte) (s : State) :
    CommandOutcome (.beaconStart m) s (execBeaconStart m s) := by
  unfold execBeaconStart
  split
  · exact .replies _
  · split
    · exact .answers _ (startMode_beforeResult _ s)
    · exact .replies _

theorem execBeaconService_outcome (s : State) : CommandOutcome .beaconService s (execBeaconService s) := by
  rcases execBeaconService_cases s with ⟨_, e⟩ | ⟨_, _, e⟩ | ⟨_, hr, e⟩ <;> rw [e]
  · exact .replies ⟨.empty, 0#16⟩
  · have hget : BeforeResult s (ringPublishTail .rb1 (s.ring .rb1).tail s) := .of_same rfl rfl rfl
    exact .answers _ (hget.trans (setState_beforeResult _ _))
  · exact .serviceInFlight _ (by simp) rfl hr

/-- Every command has one of these outcomes (R280). -/
theorem exec_outcome (i : Instr) (s : State) : CommandOutcome i s (exec i s) := by
  cases i with
  | rbPut k b => exact execRbPut_outcome k b s
  | rbGet k => exact execRbGet_outcome k s
  | rbLen | rbPeek | rbIsFull | rbIsEmpty | beaconStatus => exact .replies _
  | regRead a => exact execRegRead_outcome a s
  | regWrite a v => exact execRegWrite_outcome a v s
  | regBurstRead a n => exact execRegBurstRead_outcome a n s
  | regBurstWrite a n => exact execRegBurstWrite_outcome a n s
  | radioReset => exact execRadioReset_outcome s
  | radioCheckId => exact execRadioCheckId_outcome s
  | radioApplyConfig k => exact execRadioApplyConfig_outcome k s
  | radioLoadPacket n => exact execRadioLoadPacket_outcome n s
  | radioSetState b => exact .answers _ (setState_beforeResult b s)
  | morseStart len => exact execMorseStart_outcome len s
  | morseTick => exact .answers _ (.of_same rfl rfl rfl)
  | pnInit seed => exact execPnInit_outcome seed s
  | pnTick => exact .answers _ (.of_same rfl rfl rfl)
  | beaconStart m => exact execBeaconStart_outcome m s
  | beaconStop => exact .answers _ (stopAction_beforeResult s)
  | beaconService => exact execBeaconService_outcome s

/-- Decision D30 rules the reading of micro-steps out of every configuration that can be built (log 10). -/
theorem Params.not_constructible_of_microSteps {p : Params} (h : p.serviceReading = .microSteps) :
    p.constructible = false := by
  simp [Params.constructible, h]

/-- Settles O7: a reply is one step with its `Result` last, and the other outcomes are a put or get in flight. -/
theorem everyCommandAnswersOnce : Obligations.EveryCommandAnswersOnce := by
  intro i s
  have hout := exec_outcome i s
  generalize exec i s = o at hout ⊢
  cases hout with
  | answers x h =>
    obtain ⟨es, htrace, hnone⟩ := h.addsNoResult
    exact ⟨_, rfl, .inl ⟨h.mainRb, h.service, es, x.1.status, x.1.value, by simp [htrace], hnone⟩⟩
  | inFlight m hm hi => exact ⟨_, rfl, .inr ⟨rfl, hm, hi.imp_right .inl⟩⟩
  | serviceInFlight m hm hi hr =>
    exact ⟨_, rfl, .inr ⟨rfl, hm, .inr (.inr ⟨hi, hr, Params.not_constructible_of_microSteps hr⟩)⟩⟩

end Sys2Proof.Machine
end

section
/-! PROOFS. BEACON_SERVICE: one step in the reading of R69, R70 and D30, four steps in that of R260 (log 10). -/

namespace Sys2Proof.Machine

/-! ## Main stays outside `BEACON_SERVICE` between steps (R69, R70, D30) -/

/-- In the reading of D30 no command leaves Main inside a `BEACON_SERVICE`. -/
theorem exec_keeps_service {i : Instr} {s t : State} (hone : s.params.serviceReading = .oneStep)
    (h : exec i s = .next t) : t.service = s.service := by
  have hout := exec_outcome i s
  rw [h] at hout
  generalize ho : Host.Outcome.next t = o at hout
  cases hout with
  | answers x hx => cases ho; exact hx.service
  | inFlight m _ _ => cases ho; rfl
  | serviceInFlight m _ _ hr => rw [hone] at hr; cases hr

theorem HandlerStep.service {s t : State} (h : HandlerStep s t) : t.service = s.service := by
  obtain ⟨r0, r1, m, p, _, _, _, _, q⟩ := h
  rw [q.frame]

/-- Only the get of a `BEACON_SERVICE` moves Main's place in it (R124, R260). -/
theorem mainMicroStep_keeps_service_idle {s t : State} (hv : s.service = .idle) (h : mainMicroStep s = some t) :
    t.service = .idle := by
  have hdone : ∀ v (u : State), u.service = .idle → (mainGetDone v u).service = .idle := by
    intro v u hu
    simp [mainGetDone, hu]
  unfold mainMicroStep at h
  split at h <;> cases h
  · simpa [ringStore] using hv
  · simpa [ringPublishHead] using hv
  · simpa using hv
  · exact hdone _ _ (by simpa [ringPublishTail] using hv)

theorem NcbStep.keeps_service_idle {s t : State} (hone : s.params.serviceReading = .oneStep) (hv : s.service = .idle)
    (h : NcbStep s t) : t.service = .idle := by
  cases h with
  | interrupt x _ => exact (takeInterrupt_step x s).service.trans hv
  | micro _ _ hm => exact mainMicroStep_keeps_service_idle hv hm
  | service b _ _ hb => rw [hv] at hb; cases hb
  | wait _ _ _ => exact hv
  | hostWrite sp k v _ _ => cases sp <;> exact hv
  | hostRead _ => exact hv
  | command i _ _ _ _ _ he => exact (exec_keeps_service (s := s.dropRequest) hone he).trans hv
  | illegal _ _ => exact hv

/-- In the reading of D30 a step that finds Main outside a `BEACON_SERVICE` leaves it outside. -/
theorem step_keeps_service_idle {s t : State} (hone : s.params.serviceReading = .oneStep) (hv : s.service = .idle)
    (h : step s = .next t) : t.service = .idle := by
  cases step_cases h with
  | arrival x => exact hv
  | blockReset _ => rfl
  | turn _ hn => exact hn.keeps_service_idle (s := s.dropTurn) hone hv
  | free _ hn => exact hn.keeps_service_idle hone hv

/-! ## Uninterrupted steps of Main -/

/-- With no turn written down and no deliverable source, the step is Main's. -/
theorem step_of_main {s : State} (ht : s.env.turns = []) (hi : s.nextInterrupt = none) :
    step s = afterAction (mainAction s) := by
  rw [step_eq, nextAction_of_no_turns ht, afterInterrupts_of_none hi]

theorem step_of_mainMicroStep {s t : State} (ht : s.env.turns = []) (hi : s.nextInterrupt = none)
    (h : mainMicroStep s = some t) : step s = .next t := by
  rw [step_of_main ht hi]
  simp only [mainAction, h, afterAction]

/-- The last step of a `BEACON_SERVICE` of micro-steps is `SetState` on the byte it got (R260). -/
theorem step_of_serviceApply {s : State} {b : Byte} (ht : s.env.turns = []) (hi : s.nextInterrupt = none)
    (hm : s.mainRb = .none) (hv : s.service = .apply b) :
    step s = exec (.radioSetState b) { s with service := .idle } := by
  rw [step_of_main ht hi]
  simp only [mainAction, mainMicroStep_none.mpr hm, hv]
  rfl

/-- A run whose first step answers goes on from there. -/
theorem run_succ_of_step (M : Host.Core) {s t : M.State} (h : M.step s = .next t) (k : Nat) :
    M.run (k + 1) s = M.run k t := by
  simp only [Host.Core.run, h]

theorem run_one (M : Host.Core) (s : M.State) : M.run 1 s = M.step s := by
  simp only [Host.Core.run]
  cases M.step s <;> rfl

/-- `core.run` at the model's own types. -/
def runSteps (k : Nat) (s : State) : Host.Outcome State Fault Refusal := core.run k s

theorem runSteps_succ {s t : State} (h : step s = .next t) (k : Nat) : runSteps (k + 1) s = runSteps k t :=
  run_succ_of_step core h k

theorem runSteps_one (s : State) : runSteps 1 s = step s := run_one core s

/-! ## The two readings of `BEACON_SERVICE` -/

/-- The state in which `BEACON_SERVICE` runs its `SetState`: the oldest request consumed (R124, R260). -/
def State.served (s : State) : State :=
  { s with rb1 := { s.rb1 with tail := addW s.params.rbW s.rb1.tail 1 } }

theorem exec_beaconService_empty {s : State} (h : s.isEmpty .rb1 = true) :
    exec .beaconService s = .next { s with trace := s.trace ++ [.result .empty 0#16] } := by
  change execBeaconService s = _
  rcases execBeaconService_cases s with ⟨_, e⟩ | ⟨hne, _⟩ | ⟨hne, _⟩
  · exact e
  all_goals rw [h] at hne; cases hne

theorem exec_beaconService_oneStep {s : State} (h : s.isEmpty .rb1 = false)
    (hr : s.params.serviceReading = .oneStep) :
    exec .beaconService s = exec (.radioSetState (s.ringByte .rb1 s.rb1.tail)) s.served := by
  change execBeaconService s = _
  rcases execBeaconService_cases s with ⟨he, _⟩ | ⟨_, _, e⟩ | ⟨_, hmicro, _⟩
  · rw [h] at he; cases he
  · exact e
  · rw [hr] at hmicro; cases hmicro

theorem exec_beaconService_microSteps {s : State} (h : s.isEmpty .rb1 = false)
    (hr : s.params.serviceReading = .microSteps) :
    exec .beaconService s =
      .next { s with mainRb := .get .rb1 s.rb1.tail .checked, service := .getting } := by
  change execBeaconService s = _
  rcases execBeaconService_cases s with ⟨he, _⟩ | ⟨_, hone, _⟩ | ⟨_, _, e⟩
  · rw [h] at he; cases he
  · rw [hr] at hone; cases hone
  · exact e

/-- With BEACON_SERVICE on the command port, a free Main's step is that command (R69, R90). -/
theorem step_beaconService {s : State} {rest : List Request} (hfree : s.MainFree)
    (hr : s.env.requests = .command (encode .beaconService) :: rest) :
    step s = exec .beaconService { s with env := { s.env with requests := rest } } := by
  obtain ⟨ht, hi, hm, hv⟩ := hfree
  have hd : decode (encode .beaconService) = .ok .beaconService := by decide
  exact (stepRunsTheDecodedCommand s _ rest _ hi hm hv hr hd).1 ht

/-- G2 and G3 of an uninterrupted `BEACON_SERVICE`, and then its `SetState`: three steps after its check (R260). -/
theorem run_three_of_getting {s : State} (ht : s.env.turns = []) (hi : s.nextInterrupt = none) :
    runSteps 3 { s with mainRb := .get .rb1 s.rb1.tail .checked, service := .getting } =
      exec (.radioSetState (s.ringByte .rb1 s.rb1.tail)) { s.served with mainRb := .none, service := .idle } := by
  have hload : step { s with mainRb := .get .rb1 s.rb1.tail .checked, service := .getting } =
      .next { s with mainRb := .get .rb1 s.rb1.tail (.loaded (s.ringByte .rb1 s.rb1.tail)), service := .getting } :=
    step_of_mainMicroStep ht hi rfl
  have hpublish :
      step { s with
        mainRb := .get .rb1 s.rb1.tail (.loaded (s.ringByte .rb1 s.rb1.tail)), service := .getting } =
      .next { s.served with mainRb := .none, service := .apply (s.ringByte .rb1 s.rb1.tail) } :=
    step_of_mainMicroStep ht hi rfl
  have happly : step { s.served with mainRb := .none, service := .apply (s.ringByte .rb1 s.rb1.tail) } =
      exec (.radioSetState (s.ringByte .rb1 s.rb1.tail)) { s.served with mainRb := .none, service := .idle } :=
    step_of_serviceApply ht hi rfl rfl
  rw [runSteps_succ hload, runSteps_succ hpublish, runSteps_one, happly]

/-- `main_rb` and Main's place in `BEACON_SERVICE` as they are, written again. -/
theorem State.free_eq_self {s : State} (hm : s.mainRb = .none) (hv : s.service = .idle) :
    { s with mainRb := .none, service := .idle } = s := by
  rw [← hm, ← hv]

/-- A `BEACON_SERVICE` of one step ends as `SetState` on the oldest request ends (R69, R70). -/
theorem run_one_of_beaconService {s u : State} (h : step s = exec .beaconService u) (hne : u.isEmpty .rb1 = false)
    (hone : u.params.serviceReading = .oneStep) :
    runSteps 1 s = exec (.radioSetState (u.ringByte .rb1 u.rb1.tail)) u.served :=
  calc
    runSteps 1 s = step s := runSteps_one s
    _ = exec .beaconService u := h
    _ = _ := exec_beaconService_oneStep hne hone

/-- A `BEACON_SERVICE` of micro-steps, uninterrupted, ends so after four steps (R260). -/
theorem run_four_of_beaconService {s u : State} (h : step s = exec .beaconService u) (hu : u.MainFree)
    (hne : u.isEmpty .rb1 = false) (hmicro : u.params.serviceReading = .microSteps) :
    runSteps 4 s = exec (.radioSetState (u.ringByte .rb1 u.rb1.tail)) u.served := by
  obtain ⟨ht, hi, hm, hv⟩ := hu
  have hfree : { u.served with mainRb := .none, service := .idle } = u.served :=
    State.free_eq_self (s := u.served) hm hv
  calc
    runSteps 4 s = runSteps 3 { u with mainRb := .get .rb1 u.rb1.tail .checked, service := .getting } :=
      runSteps_succ (h.trans (exec_beaconService_microSteps hne hmicro)) 3
    _ = exec (.radioSetState (u.ringByte .rb1 u.rb1.tail)) { u.served with mainRb := .none, service := .idle } :=
      run_three_of_getting ht hi
    _ = _ := by rw [hfree]

/-- Settles O50: each reading by its run from the command port, whose first step is the command itself. -/
theorem beaconServiceServesOneRequest : Obligations.BeaconServiceServesOneRequest := by
  intro s
  refine ⟨exec_beaconService_empty, fun hne => ⟨exec_beaconService_oneStep hne,
    exec_beaconService_microSteps hne, ?_⟩, fun t hone hv h => step_keeps_service_idle hone hv h,
    fun b ht hi hm hv => step_of_serviceApply ht hi hm hv⟩
  intro rest hfree hr
  have hstep := step_beaconService hfree hr
  exact ⟨_, rfl, run_one_of_beaconService hstep hne, run_four_of_beaconService hstep hfree hne⟩

end Sys2Proof.Machine
end


section
/-! PROOFS. The decoder and the encoder are each other's inverse, and the opcode table lists exactly the words the
decoder reads (R90 to R94, R112). -/

namespace Sys2Proof

/-! ## What each format reads (R91, R93) -/

/-- The argument is 0 when both its bytes are (R91). -/
theorem argField_eq_zero_iff (w : Word) : argField w = 0#16 ↔ hiField w = 0#8 ∧ loField w = 0#8 := by
  constructor
  · intro h
    have hhi := hiField_append (opField w) (argField w)
    have hlo := loField_append (opField w) (argField w)
    rw [← word_eq_append, h] at hhi hlo
    exact ⟨hhi, hlo⟩
  · rintro ⟨hhi, hlo⟩
    rw [argField_eq, hhi, hlo]
    rfl

/-- A format that checks some bits reads a word when they are right. -/
theorem ite_eq_ok {check : Prop} [Decidable check] {i j : Instr} {e : DecodeError} :
    (if check then Decoded.ok i else .illegal e) = .ok j ↔ check ∧ i = j := by
  by_cases h : check <;> simp [h]

theorem formatN_eq_ok {w : Word} {i j : Instr} :
    formatN w i = .ok j ↔ (hiField w = 0#8 ∧ loField w = 0#8) ∧ i = j := by
  rw [formatN, ite_eq_ok, argField_eq_zero_iff]

theorem formatB_eq_ok {w : Word} {mk : Byte → Instr} {j : Instr} :
    formatB w mk = .ok j ↔ hiField w = 0#8 ∧ mk (loField w) = j :=
  ite_eq_ok

theorem formatI_eq_ok {w : Word} {mk : Byte → Instr} {j : Instr} :
    formatI w mk = .ok j ↔ loField w = 0#8 ∧ mk (hiField w) = j :=
  ite_eq_ok

theorem formatIB_eq_ok {w : Word} {mk : Byte → Byte → Instr} {j : Instr} :
    formatIB w mk = .ok j ↔ mk (hiField w) (loField w) = j := by
  simp [formatIB]

theorem formatA_eq_ok {w : Word} {mk : RegAddr → Instr} {j : Instr} :
    formatA w mk = .ok j ↔ ((hiField w).msb = false ∧ loField w = 0#8) ∧ mk (addrField w) = j :=
  ite_eq_ok

theorem formatAV_eq_ok {w : Word} {mk : RegAddr → Byte → Instr} {j : Instr} :
    formatAV w mk = .ok j ↔ (hiField w).msb = false ∧ mk (addrField w) (loField w) = j :=
  ite_eq_ok

theorem formatH_eq_ok {w : Word} {mk : Half → Instr} {j : Instr} :
    formatH w mk = .ok j ↔ mk (argField w) = j := by
  simp [formatH]

/-! ## Encoding, then decoding -/

/-- Decoding undoes encoding: the opcode selects the format the command was encoded in. -/
theorem decode_encode (i : Instr) : decode (encode i) = .ok i := by
  cases i with
  | rbPut | rbPeek =>
    simp [encode, decode, formatIB_eq_ok, opField_word, hiField_word, loField_word]
  | rbGet | rbLen | rbIsFull | rbIsEmpty =>
    simp [encode, decode, formatI_eq_ok, opField_word, hiField_word, loField_word]
  | regRead =>
    simp [encode, decode, formatA_eq_ok, opField_word, hiField_word, loField_word, addrField_word, addrByte_msb]
  | regWrite | regBurstRead | regBurstWrite =>
    simp [encode, decode, formatAV_eq_ok, opField_word, hiField_word, loField_word, addrField_word, addrByte_msb]
  | radioReset | radioCheckId | morseTick | pnTick | beaconStop | beaconService =>
    simp [encode, decode, formatN_eq_ok, opField_word, hiField_word, loField_word]
  | radioApplyConfig | radioSetState | radioLoadPacket | beaconStart | beaconStatus =>
    simp [encode, decode, formatB_eq_ok, opField_word, hiField_word, loField_word]
  | morseStart | pnInit => simp [encode, decode, formatH_eq_ok, opField_append, argField_append]

/-- Settles O1, by the format of each command. -/
theorem decodeOfEncodeIsTheCommand : Obligations.DecodeOfEncodeIsTheCommand := decode_encode

/-! ## Decoding, then encoding -/

/-- `DecodesBy w f d`: the opcode of `w` has format `f` (R94), by which the decoder answers `d`, and the commands of
that format are encoded under that opcode. -/
inductive DecodesBy (w : Word) : Option Format → Decoded → Prop
  | n {i : Instr} (he : encode i = word (opField w) 0#8 0#8) : DecodesBy w (some .n) (formatN w i)
  | b {mk : Byte → Instr} (he : ∀ lo, encode (mk lo) = word (opField w) 0#8 lo) :
    DecodesBy w (some .b) (formatB w mk)
  | i {mk : Byte → Instr} (he : ∀ hi, encode (mk hi) = word (opField w) hi 0#8) :
    DecodesBy w (some .i) (formatI w mk)
  | ib {mk : Byte → Byte → Instr} (he : ∀ hi lo, encode (mk hi lo) = word (opField w) hi lo) :
    DecodesBy w (some .ib) (formatIB w mk)
  | a {mk : RegAddr → Instr} (he : ∀ a, encode (mk a) = word (opField w) (addrByte a) 0#8) :
    DecodesBy w (some .a) (formatA w mk)
  | av {mk : RegAddr → Byte → Instr} (he : ∀ a v, encode (mk a v) = word (opField w) (addrByte a) v) :
    DecodesBy w (some .av) (formatAV w mk)
  | h {mk : Half → Instr} (he : ∀ arg, encode (mk arg) = opField w ++ arg) :
    DecodesBy w (some .h) (formatH w mk)
  | unlisted : DecodesBy w none (.illegal .unlistedOpcode)

/-- The decoder goes by the format of the opcode, which is that of the command's encoding (R94). -/
theorem decode_decodesBy (w : Word) : DecodesBy w (formatOf (opField w)) (decode w) := by
  unfold decode
  split
  case h_24 =>
    have hnone : formatOf (opField w) = none := by simp [formatOf, *]
    rw [hnone]
    exact .unlisted
  all_goals
    rename_i hop
    rw [hop]
  case h_1 | h_4 => exact .ib fun _ _ => by rw [hop]; rfl
  case h_2 | h_3 | h_5 | h_6 => exact .i fun _ => by rw [hop]; rfl
  case h_7 => exact .a fun _ => by rw [hop]; rfl
  case h_8 | h_9 | h_10 => exact .av fun _ _ => by rw [hop]; rfl
  case h_11 | h_12 | h_17 | h_19 | h_21 | h_22 => exact .n (by rw [hop]; rfl)
  case h_13 | h_14 | h_15 | h_20 | h_23 => exact .b fun _ => by rw [hop]; rfl
  case h_16 | h_18 => exact .h fun _ => by rw [hop]; rfl

/-- A format reads only words whose unused bits are 0, and the command read keeps all the others (R91). -/
theorem DecodesBy.encode_eq {w : Word} {f : Option Format} {i : Instr} (hd : DecodesBy w f (.ok i)) :
    encode i = w := by
  generalize hok : Decoded.ok i = d at hd
  have hw := word_eq_word w
  cases hd with
  | n he =>
    obtain ⟨⟨hhi, hlo⟩, rfl⟩ := formatN_eq_ok.mp hok.symm
    rw [he, hw, opField_word, hhi, hlo]
  | b he =>
    obtain ⟨hhi, rfl⟩ := formatB_eq_ok.mp hok.symm
    rw [he, ← hhi, ← hw]
  | i he =>
    obtain ⟨hlo, rfl⟩ := formatI_eq_ok.mp hok.symm
    rw [he, ← hlo, ← hw]
  | ib he =>
    obtain rfl := formatIB_eq_ok.mp hok.symm
    rw [he, ← hw]
  | a he =>
    obtain ⟨⟨hmsb, hlo⟩, rfl⟩ := formatA_eq_ok.mp hok.symm
    rw [he, addrByte_addrField hmsb, ← hlo, ← hw]
  | av he =>
    obtain ⟨hmsb, rfl⟩ := formatAV_eq_ok.mp hok.symm
    rw [he, addrByte_addrField hmsb, ← hw]
  | h he =>
    obtain rfl := formatH_eq_ok.mp hok.symm
    rw [he, ← word_eq_append]
  | unlisted => cases hok

/-- Encoding undoes decoding. -/
theorem encode_of_decode {w : Word} {i : Instr} (h : decode w = .ok i) : encode i = w :=
  DecodesBy.encode_eq (h ▸ decode_decodesBy w)

/-- Settles O2: the decoder reads a word by one of the seven formats, and none of them drops a bit. -/
theorem encodeOfDecodeIsTheWord : Obligations.EncodeOfDecodeIsTheWord := fun _ _ => encode_of_decode

/-! ## The format check and the opcode table (R112) -/

theorem wordWellFormed_iff (w : Word) :
    wordWellFormed w = true ↔ ∃ f, formatOf (opField w) = some f ∧ w &&& f.unusedBits = 0#24 := by
  unfold wordWellFormed opField
  split <;> simp [*]

/-- An argument byte whose bits are all unused is 0. -/
theorem eq_zero_of_and_eq_zero {x : Byte} (h : x &&& 0xFF#8 = 0#8) : x = 0#8 :=
  BitVec.and_allOnes.symm.trans h

/-- Bits of the argument that are 0 in a word, byte by byte. -/
theorem fields_and_eq_zero {w m : Word} (h : w &&& m = 0#24) :
    hiField w &&& hiField m = 0#8 ∧ loField w &&& loField m = 0#8 := by
  rw [← hiField_and, ← loField_and, h]
  exact ⟨rfl, rfl⟩

theorem msb_of_and_eq_zero {x : Byte} (h : x &&& 0x80#8 = 0#8) : x.msb = false := by
  have h7 := congrArg (·.getLsbD 7) h
  simpa [BitVec.msb_eq_getLsbD_last] using h7

/-- With the unused bits of its format 0, a word is read (R91). -/
theorem DecodesBy.exists_ok {w : Word} {f : Format} {d : Decoded} (hd : DecodesBy w (some f) d)
    (hu : w &&& f.unusedBits = 0#24) : ∃ i, d = .ok i := by
  obtain ⟨hhi, hlo⟩ := fields_and_eq_zero hu
  cases hd with
  | n =>
    exact ⟨_, formatN_eq_ok.mpr ⟨⟨eq_zero_of_and_eq_zero hhi, eq_zero_of_and_eq_zero hlo⟩, rfl⟩⟩
  | b => exact ⟨_, formatB_eq_ok.mpr ⟨eq_zero_of_and_eq_zero hhi, rfl⟩⟩
  | i => exact ⟨_, formatI_eq_ok.mpr ⟨eq_zero_of_and_eq_zero hlo, rfl⟩⟩
  | ib => exact ⟨_, formatIB_eq_ok.mpr rfl⟩
  | a => exact ⟨_, formatA_eq_ok.mpr ⟨⟨msb_of_and_eq_zero hhi, eq_zero_of_and_eq_zero hlo⟩, rfl⟩⟩
  | av => exact ⟨_, formatAV_eq_ok.mpr ⟨msb_of_and_eq_zero hhi, rfl⟩⟩
  | h => exact ⟨_, formatH_eq_ok.mpr rfl⟩

/-- A word that passes the format check is a command word. -/
theorem exists_decode_of_wordWellFormed {w : Word} (h : wordWellFormed w = true) : ∃ i, decode w = .ok i := by
  obtain ⟨f, hf, hu⟩ := (wordWellFormed_iff w).mp h
  exact DecodesBy.exists_ok (hf ▸ decode_decodesBy w) hu

/-- A row of the opcode table fixes the opcode and requires the unused bits of its format to be 0 (R94). -/
theorem opcodeTable_row {r : OpcodeRow} (hr : r ∈ opcodeTable) :
    opField r.mask = 0xFF#8 ∧ ∃ f, formatOf (opField r.pattern) = some f ∧
      r.mask &&& f.unusedBits = f.unusedBits ∧ r.pattern &&& f.unusedBits = 0#24 := by
  have hrows : ∀ r ∈ opcodeTable, opField r.mask = 0xFF#8 ∧ ∃ f ∈ (formatOf (opField r.pattern)).toList,
      r.mask &&& f.unusedBits = f.unusedBits ∧ r.pattern &&& f.unusedBits = 0#24 := by decide
  simpa using hrows r hr

/-- A word that matches a row of the opcode table passes the format check. -/
theorem wordWellFormed_of_row {w : Word} {r : OpcodeRow} (hr : r ∈ opcodeTable) (hw : w &&& r.mask = r.pattern) :
    wordWellFormed w = true := by
  obtain ⟨hmask, f, hf, hkeep, hzero⟩ := opcodeTable_row hr
  have hop : opField w = opField r.pattern :=
    calc
      opField w = opField w &&& opField r.mask := by rw [hmask]; exact BitVec.and_allOnes.symm
      _ = opField r.pattern := by rw [← opField_and, hw]
  have hunused : w &&& f.unusedBits = 0#24 :=
    calc
      w &&& f.unusedBits = w &&& r.mask &&& f.unusedBits := by rw [BitVec.and_assoc, hkeep]
      _ = 0#24 := by rw [hw, hzero]
  exact (wordWellFormed_iff w).mpr ⟨f, hop ▸ hf, hunused⟩

theorem mem_rowsOf {w : Word} {r : OpcodeRow} : r ∈ rowsOf w ↔ r ∈ opcodeTable ∧ w &&& r.mask = r.pattern := by
  simp [rowsOf, OpcodeRow.accepts]

/-- The word of a command matches the row of its mnemonic, and no other (R94). -/
theorem rowsOf_encode (i : Instr) : (rowsOf (encode i)).map (·.name) = [mnemonic i] := by
  cases i with
  | rbPut => exact Laws.EncodingRow.rbPut ..
  | rbGet => exact Laws.EncodingRow.rbGet ..
  | rbLen => exact Laws.EncodingRow.rbLen ..
  | rbPeek => exact Laws.EncodingRow.rbPeek ..
  | rbIsFull => exact Laws.EncodingRow.rbIsFull ..
  | rbIsEmpty => exact Laws.EncodingRow.rbIsEmpty ..
  | regRead => exact Laws.EncodingRow.regRead ..
  | regWrite => exact Laws.EncodingRow.regWrite ..
  | regBurstRead => exact Laws.EncodingRow.regBurstRead ..
  | regBurstWrite => exact Laws.EncodingRow.regBurstWrite ..
  | radioReset => exact Laws.EncodingRow.radioReset
  | radioCheckId => exact Laws.EncodingRow.radioCheckId
  | radioApplyConfig => exact Laws.EncodingRow.radioApplyConfig ..
  | radioSetState => exact Laws.EncodingRow.radioSetState ..
  | radioLoadPacket => exact Laws.EncodingRow.radioLoadPacket ..
  | morseStart => exact Laws.EncodingRow.morseStart ..
  | morseTick => exact Laws.EncodingRow.morseTick
  | pnInit => exact Laws.EncodingRow.pnInit ..
  | pnTick => exact Laws.EncodingRow.pnTick
  | beaconStart => exact Laws.EncodingRow.beaconStart ..
  | beaconStop => exact Laws.EncodingRow.beaconStop
  | beaconService => exact Laws.EncodingRow.beaconService
  | beaconStatus => exact Laws.EncodingRow.beaconStatus ..

/-- The row a command word matches is that of its mnemonic. -/
theorem mnemonic_of_row {w : Word} {i : Instr} {r : OpcodeRow} (hd : decode w = .ok i) (hr : r ∈ opcodeTable)
    (hw : w &&& r.mask = r.pattern) : mnemonic i = r.name := by
  have hname : r.name ∈ (rowsOf (encode i)).map (·.name) :=
    List.mem_map_of_mem (mem_rowsOf.mpr ⟨hr, (encode_of_decode hd).symm ▸ hw⟩)
  rw [rowsOf_encode, List.mem_singleton] at hname
  exact hname.symm

/-- A command word matches a row. -/
theorem exists_row_of_decode {w : Word} {i : Instr} (hd : decode w = .ok i) :
    ∃ r ∈ opcodeTable, w &&& r.mask = r.pattern := by
  have hname : mnemonic i ∈ (rowsOf (encode i)).map (·.name) := by simp [rowsOf_encode]
  obtain ⟨r, hr, _⟩ := List.mem_map.mp hname
  rw [encode_of_decode hd] at hr
  exact ⟨r, mem_rowsOf.mp hr⟩

/-- A word that is no command is answered `IllegalCommand` (R112). -/
theorem runWord_of_not_decode {w : Word} (h : ∀ i, decode w ≠ .ok i) (s : Machine.State) :
    Machine.runWord w s = .next { s with trace := s.trace ++ [.result .illegalCommand 0#16] } := by
  cases hd : decode w with
  | ok i => exact absurd hd (h i)
  | illegal e =>
    simp only [Machine.runWord, hd]
    rfl

/-- Settles O3: matching a row is passing the format check, which is being a command word; the row is that of
the command's encoding. -/
theorem opcodeTableDecides : Obligations.OpcodeTableDecides := by
  refine ⟨fun w r hr hw => ?_, fun w s hno => ?_⟩
  · have hwf := wordWellFormed_of_row hr hw
    obtain ⟨i, hd⟩ := exists_decode_of_wordWellFormed hwf
    exact ⟨hwf, i, hd, mnemonic_of_row hd hr hw⟩
  · have hnot : ∀ i, decode w ≠ .ok i := fun i hd =>
      let ⟨r, hr, hw⟩ := exists_row_of_decode hd
      hno r hr hw
    refine ⟨Bool.eq_false_iff.mpr fun hwf => ?_, runWord_of_not_decode hnot s⟩
    obtain ⟨i, hd⟩ := exists_decode_of_wordWellFormed hwf
    exact hnot i hd

/-! ## Words written out -/

/-- Settles O4: the legal words are the encodings of their commands, and the two illegal ones are computed. -/
theorem sampleWordsDecode : Obligations.SampleWordsDecode :=
  ⟨decode_encode (.rbPut 0x00#8 0x11#8), decode_encode (.rbLen 0x01#8), decode_encode (.regWrite 0x07#7 0x80#8),
    decode_encode (.radioSetState 5#8), decode_encode (.morseStart 3#16), decode_encode (.pnInit 8#16),
    decode_encode (.beaconStart 2#8), by decide, by decide⟩

end Sys2Proof
end

section
/-! PROOFS. The SPI address byte (R98). -/

namespace Sys2Proof.Machine

/-- A read sends the address with bit 7 clear. -/
theorem addressByte_rd (a : RegAddr) : addressByte .rd a = a.setWidth 8 :=
  (BitVec.setWidth_eq_append (by decide)).symm

/-- A write sends the address with bit 7 set. -/
theorem addressByte_wr (a : RegAddr) : addressByte .wr a = 0x80#8 ||| a.setWidth 8 :=
  calc
    addressByte .wr a = (1#1 ||| 0#1) ++ (0#7 ||| a) := by rw [BitVec.or_zero, BitVec.zero_or]; rfl
    _ = (1#1 ++ 0#7) ||| (0#1 ++ a) := BitVec.or_append.symm
    _ = 0x80#8 ||| a.setWidth 8 := by rw [← addressByte_rd]; rfl

/-- Bit 7 is the write flag. -/
theorem addressByte_bit7 (d : Dir) (a : RegAddr) : (addressByte d a).getLsbD 7 = decide (d = .wr) := by
  cases d <;> exact BitVec.getLsbD_append

/-- Settles O20. -/
theorem spiAddressByte : Obligations.SpiAddressByte := fun a _ _ =>
  ⟨addressByte_wr a, addressByte_rd a, addressByte_bit7 .wr a, addressByte_bit7 .rd a, fun _ => rfl⟩

end Sys2Proof.Machine
end

section
/-! PROOFS. How a letter is keyed (R104, R105, R207 to R209, R214): each key pattern is the units of its symbol, each
letter code is the string of its symbols, and a letter is its symbols in turn. -/

namespace Sys2Proof.Machine

/-! ## Letter codes (R104) -/

/-- Every bit moves up by one, and bit 0 stays (R201). -/
theorem shlSticky_getLsbD (x : Byte) {k : Nat} (hk : k < 8) : (shlSticky x).getLsbD k = x.getLsbD (k - 1) := by
  simp only [shlSticky, BitVec.getLsbD_or, BitVec.getLsbD_shiftLeft, BitVec.getLsbD_and, BitVec.getLsbD_one]
  cases k with
  | zero => simp
  | succ k => simp [hk]

/-- The bits of a used up register are all the same (R28). -/
theorem exhausted_iff (x : Byte) : exhausted x = true ↔ ∃ b, ∀ k < 8, x.getLsbD k = b := by
  simp only [exhausted, Bool.or_eq_true, beq_iff_eq]
  constructor
  · rintro (rfl | rfl)
    · exact ⟨false, by decide⟩
    · exact ⟨true, by decide⟩
  · rintro ⟨b, hb⟩
    cases b with
    | false => exact .inl (BitVec.eq_of_getLsbD_eq fun k hk => by rw [hb k hk, BitVec.getLsbD_zero])
    | true => exact .inr (BitVec.eq_of_getLsbD_eq fun k hk => (hb k hk).trans (by revert k; decide))

/-- The bit that fills a letter code up: the complement of the last symbol (R104). -/
def letterPad (symbols : List Bool) : Bool := !(symbols.getLast?.getD false)

/-- The eight symbols of a letter code, padding included. -/
def paddedSymbols (symbols : List Bool) : List Bool :=
  (symbols ++ List.replicate (8 - symbols.length) (letterPad symbols)).take 8

theorem letterCode_eq (symbols : List Bool) :
    letterCode symbols = (BitVec.ofBoolListBE (paddedSymbols symbols)).setWidth 8 := rfl

theorem paddedSymbols_length (symbols : List Bool) : (paddedSymbols symbols).length = 8 := by
  simp only [paddedSymbols, List.length_take, List.length_append, List.length_replicate]
  omega

theorem paddedSymbols_getD (symbols : List Bool) {k : Nat} (hk : k < 8) (d : Bool) :
    (paddedSymbols symbols).getD k d = symbols.getD k (letterPad symbols) := by
  simp only [paddedSymbols, List.getD_eq_getElem?_getD, List.getElem?_take, hk, if_true]
  by_cases hin : k < symbols.length
  · rw [List.getElem?_append_left hin, List.getElem?_eq_getElem hin, Option.getD_some, Option.getD_some]
  · rw [List.getElem?_append_right (by omega), List.getElem?_replicate_of_lt (by omega),
      List.getElem?_eq_none (by omega), Option.getD_some, Option.getD_none]

/-- Bit by bit, a letter code is its symbols from bit 7 down, and then the padding. -/
theorem letterCode_getLsbD (symbols : List Bool) {k : Nat} (hk : k < 8) :
    (letterCode symbols).getLsbD k = symbols.getD (7 - k) (letterPad symbols) := by
  rw [letterCode_eq, BitVec.getLsbD_setWidth, BitVec.getLsbD_ofBoolListBE, paddedSymbols_length,
    paddedSymbols_getD symbols (by omega)]
  simp [hk]

/-- The first symbol of a letter code is its bit 7. -/
theorem letterCode_bit7 (x : Bool) (xs : List Bool) : (letterCode (x :: xs)).getLsbD 7 = x :=
  letterCode_getLsbD (x :: xs) (by decide)

/-- The last symbol of a letter of up to 7 symbols differs from the padding, which is at least bit 0. -/
theorem exhausted_letterCode {symbols : List Bool} (hne : symbols ≠ []) (hlen : symbols.length ≤ 7) :
    exhausted (letterCode symbols) = false := by
  have hpos : 0 < symbols.length := List.length_pos_iff.mpr hne
  have hpad : (letterCode symbols).getLsbD 0 = letterPad symbols := by
    rw [letterCode_getLsbD symbols (by decide), List.getD_eq_default _ _ hlen]
  have hlast : (letterCode symbols).getLsbD (8 - symbols.length) = !letterPad symbols := by
    rw [letterCode_getLsbD symbols (by omega), show 7 - (8 - symbols.length) = symbols.length - 1 by omega,
      letterPad, Bool.not_not, List.getLast?_eq_getElem?, List.getD_eq_getElem _ _ (by omega),
      List.getElem?_eq_getElem (by omega), Option.getD_some]
  refine Bool.eq_false_iff.mpr fun hex => ?_
  obtain ⟨b, hb⟩ := (exhausted_iff _).mp hex
  rw [← hb 0 (by decide), hpad] at hb
  have hsame := hlast.symm.trans (hb (8 - symbols.length) (by omega))
  exact Bool.not_ne_self _ hsame

theorem shlSticky_letterCode_getLsbD {x : Bool} {xs : List Bool} (hlen : xs.length ≤ 6) {k : Nat} (hk : k < 8) :
    (shlSticky (letterCode (x :: xs))).getLsbD k = xs.getD (7 - k) (letterPad (x :: xs)) := by
  rw [shlSticky_getLsbD _ hk, letterCode_getLsbD _ (by omega)]
  by_cases h0 : k = 0
  · subst h0
    rw [List.getD_eq_default _ _ (by simpa [Nat.lt_succ_iff] using hlen), List.getD_eq_default _ _ (by omega)]
  · rw [show 7 - (k - 1) = (7 - k) + 1 by omega, List.getD_cons_succ]

/-- Taking a symbol leaves the code of the rest of the letter (R208). -/
theorem shlSticky_letterCode {x : Bool} {xs : List Bool} (hne : xs ≠ []) (hlen : xs.length ≤ 6) :
    shlSticky (letterCode (x :: xs)) = letterCode xs := by
  have hpad : letterPad (x :: xs) = letterPad xs := by
    obtain ⟨y, ys, rfl⟩ := List.exists_cons_of_ne_nil hne
    rfl
  apply BitVec.eq_of_getLsbD_eq
  intro k hk
  rw [shlSticky_letterCode_getLsbD hlen hk, letterCode_getLsbD _ hk, hpad]

/-- Taking the last symbol uses the letter up (R208). -/
theorem exhausted_shlSticky_letterCode (x : Bool) : exhausted (shlSticky (letterCode [x])) = true :=
  (exhausted_iff _).mpr ⟨letterPad [x], fun k hk => by
    rw [shlSticky_letterCode_getLsbD (xs := []) (Nat.zero_le 6) hk, List.getD_nil]⟩

/-! ## Key patterns (R105) -/

/-- The key pattern of a symbol, the last of its letter or not (R105). -/
def symbolPattern (dash last : Bool) : Byte :=
  if dash then (if last then keyDashLast else keyDash) else (if last then keyDotLast else keyDot)

/-- The pattern holds exactly these units: they come off the top until it is used up (R207). -/
def holdsUnits : Byte → List Bool → Bool
  | k, [] => exhausted k
  | k, u :: us => !exhausted k && k.getLsbD 7 == u && holdsUnits (shlSticky k) us

theorem symbolPattern_holdsUnits (dash last : Bool) :
    holdsUnits (symbolPattern dash last) (symbolUnits dash last) = true := by
  cases dash <;> cases last <;> decide

theorem exhausted_symbolPattern (dash last : Bool) : exhausted (symbolPattern dash last) = false := by
  cases dash <;> cases last <;> decide

theorem symbolUnits_ne_nil (dash last : Bool) : symbolUnits dash last ≠ [] := by
  cases dash <;> simp [symbolUnits]

/-! ## One call of an active generator (R205) -/

/-- The outcome of a call that keys one unit (R101, R205). -/
def unitOutcome (on : Bool) : MorseOutcome := .key (if on then .on else .off)

/-- The next symbol of the letter taken from `symbol_shift` (R208). -/
theorem morseNextSymbol_eq (m : Morse) :
    morseNextSymbol m = { m with
      symbolShift := shlSticky m.symbolShift
      keyShift := symbolPattern (m.symbolShift.getLsbD 7) (exhausted (shlSticky m.symbolShift)) } := rfl

/-- With units left in the key pattern, the next one is keyed (R207). -/
theorem morseStep_keyOut (p : Params) (c : Byte) {m : Morse} (ha : m.active = true)
    (hk : exhausted m.keyShift = false) :
    morseStep p c m = (unitOutcome (m.keyShift.getLsbD 7), { m with keyShift := shlSticky m.keyShift }) := by
  simp [morseStep, morseUnit, morseKeyOut, unitOutcome, ha, hk]

/-- With symbols left in the letter, a call keys what it would key with the next one taken (R208). -/
theorem morseStep_nextSymbol (p : Params) (c : Byte) {m : Morse} (ha : m.active = true)
    (hk : exhausted m.keyShift = true) (hs : exhausted m.symbolShift = false) :
    morseStep p c m = morseStep p c (morseNextSymbol m) := by
  simp [morseStep, morseUnit, morseNextSymbol_eq, exhausted_symbolPattern, ha, hk, hs]

/-- With a letter to fetch, a call keys what it would key with the letter fetched (R209). -/
theorem morseStep_fetch {p : Params} {c v : Byte} {m : Morse} (ha : m.active = true)
    (hk : exhausted m.keyShift = true) (hs : exhausted m.symbolShift = true) (hend : m.messageCursor ≠ m.msgLen)
    (hc : morseLookup p.morseTable c = .code v) (hv : exhausted v = false) :
    morseStep p c m =
      morseStep p c { m with messageCursor := m.messageCursor + 1#16, symbolShift := v } := by
  simp [morseStep, morseFetch, ha, hk, hs, hend, hc, hv]

/-! ## Runs of the generator -/

/-- From one state to another the generator keys these units, one a call. -/
inductive KeysUnits (p : Params) (c : Byte) : Morse → List Bool → Morse → Prop
  | nil {m : Morse} : KeysUnits p c m [] m
  | cons {m m₁ m' : Morse} {u : Bool} {us : List Bool} (h : morseStep p c m = (unitOutcome u, m₁))
    (hs : KeysUnits p c m₁ us m') : KeysUnits p c m (u :: us) m'

section
variable {p : Params} {c : Byte} {m m₁ m' : Morse} {us vs : List Bool}

theorem KeysUnits.morseRun_eq (h : KeysUnits p c m us m') :
    morseRun p c us.length m = (us.map unitOutcome, m') := by
  induction h with
  | nil => rfl
  | cons h _ ih => simp only [List.length_cons, morseRun, List.map_cons, h, ih]

theorem KeysUnits.append (h : KeysUnits p c m us m₁) (hs : KeysUnits p c m₁ vs m') :
    KeysUnits p c m (us ++ vs) m' := by
  induction h with
  | nil => exact hs
  | cons h _ ih => exact .cons h (ih hs)

/-- Where the next call is the same, so is all that is keyed. -/
theorem KeysUnits.of_morseStep_eq (h : KeysUnits p c m₁ us m') (hne : us ≠ [])
    (heq : morseStep p c m = morseStep p c m₁) : KeysUnits p c m us m' := by
  cases h with
  | nil => exact absurd rfl hne
  | cons h hs => exact .cons (heq.trans h) hs

/-- An active generator keys the units its pattern holds. -/
theorem keysUnits_of_holdsUnits (ha : m.active = true) (h : holdsUnits m.keyShift us = true) :
    ∃ k, exhausted k = true ∧ KeysUnits p c m us { m with keyShift := k } := by
  induction us generalizing m with
  | nil => exact ⟨m.keyShift, h, .nil⟩
  | cons u us ih =>
    simp only [holdsUnits, Bool.and_eq_true, Bool.not_eq_true', beq_iff_eq] at h
    obtain ⟨⟨hk, hu⟩, hrest⟩ := h
    obtain ⟨k, hex, hrun⟩ := ih (m := { m with keyShift := shlSticky m.keyShift }) ha hrest
    exact ⟨k, hex, .cons (hu ▸ morseStep_keyOut p c ha hk) hrun⟩

/-- With the key pattern used up, the next symbol of the letter is taken and keyed (R208, R214). -/
theorem keysUnits_symbol (ha : m.active = true) (hk : exhausted m.keyShift = true)
    (hs : exhausted m.symbolShift = false) :
    ∃ k, exhausted k = true ∧
      KeysUnits p c m (symbolUnits (m.symbolShift.getLsbD 7) (exhausted (shlSticky m.symbolShift)))
        { m with symbolShift := shlSticky m.symbolShift, keyShift := k } := by
  obtain ⟨k, hex, hrun⟩ :=
    keysUnits_of_holdsUnits (p := p) (c := c) (m := morseNextSymbol m) ha (symbolPattern_holdsUnits _ _)
  exact ⟨k, hex, hrun.of_morseStep_eq (symbolUnits_ne_nil _ _) (morseStep_nextSymbol p c ha hk hs)⟩

end

/-! ## Letters (R104, R209, R214) -/

/-- A letter in `symbol_shift` is keyed symbol by symbol, and then both registers are used up. -/
theorem keysUnits_letter {p : Params} {c : Byte} {symbols : List Bool} {m : Morse} (hne : symbols ≠ [])
    (hlen : symbols.length ≤ 7) (ha : m.active = true) (hk : exhausted m.keyShift = true)
    (hs : m.symbolShift = letterCode symbols) :
    ∃ k v, exhausted k = true ∧ exhausted v = true ∧
      KeysUnits p c m (letterUnits symbols) { m with symbolShift := v, keyShift := k } := by
  induction symbols generalizing m with
  | nil => exact absurd rfl hne
  | cons x xs ih =>
    have hxs : xs.length ≤ 6 := Nat.le_of_succ_le_succ hlen
    obtain ⟨k, hex, hrun⟩ := keysUnits_symbol (p := p) (c := c) ha hk (hs ▸ exhausted_letterCode hne hlen)
    rw [hs, letterCode_bit7] at hrun
    cases xs with
    | nil =>
      rw [exhausted_shlSticky_letterCode] at hrun
      exact ⟨k, _, hex, exhausted_shlSticky_letterCode x, hrun⟩
    | cons y ys =>
      have hys : y :: ys ≠ [] := List.cons_ne_nil y ys
      rw [shlSticky_letterCode hys hxs, exhausted_letterCode hys (by omega)] at hrun
      obtain ⟨k', v, hex', hv, hrest⟩ :=
        ih (m := { m with symbolShift := letterCode (y :: ys), keyShift := k }) hys (by omega) ha hex rfl
      exact ⟨k', v, hex', hv, hrun.append hrest⟩

/-- A dot is two units of a letter, a dash four, and the letter ends with two more (R214). -/
theorem letterUnits_length {symbols : List Bool} (hne : symbols ≠ []) :
    (letterUnits symbols).length = 2 * symbols.count false + 4 * symbols.count true + 2 := by
  induction symbols with
  | nil => exact absurd rfl hne
  | cons x xs ih =>
    cases xs with
    | nil => cases x <;> rfl
    | cons y ys =>
      have hrest := ih (List.cons_ne_nil y ys)
      cases x <;> simp [letterUnits, symbolUnits, hrest] <;> omega

theorem letterUnits_ne_nil {symbols : List Bool} (hne : symbols ≠ []) : letterUnits symbols ≠ [] := by
  rw [← List.length_pos_iff, letterUnits_length hne]
  omega

/-- Settles O41: a fetched letter is keyed as one already in `symbol_shift`. -/
theorem morseLetterIsKeyedExactly : Obligations.MorseLetterIsKeyedExactly := by
  intro symbols p c m hne hlen ha hk
  refine ⟨letterUnits_length hne, fun cursor hcase => ?_⟩
  obtain ⟨k, v, hex, hv, hrun⟩ : ∃ k v, exhausted k = true ∧ exhausted v = true ∧
      KeysUnits p c m (letterUnits symbols)
        { m with messageCursor := cursor, symbolShift := v, keyShift := k } := by
    rcases hcase with ⟨hs, hend, hc, rfl⟩ | ⟨hs, rfl⟩
    · obtain ⟨k, v, hex, hv, hrun⟩ := keysUnits_letter (p := p) (c := c)
        (m := { m with messageCursor := m.messageCursor + 1#16, symbolShift := letterCode symbols })
        hne hlen ha hk rfl
      exact ⟨k, v, hex, hv, hrun.of_morseStep_eq (letterUnits_ne_nil hne)
        (morseStep_fetch ha hk hs hend hc (exhausted_letterCode hne hlen))⟩
    · exact keysUnits_letter hne hlen ha hk hs
  rw [hrun.morseRun_eq]
  exact ⟨rfl, hex, hv, rfl, rfl, ha⟩

end Sys2Proof.Machine
end

section
/-! PROOFS. The wrap-around law of the ring indices (R10, R121, R134): how sums and differences of free-running indices
cancel, and that indices less than a capacity apart have different slots. -/

namespace Sys2Proof.Machine

/-! ## Free-running indices (R10) -/

theorem addW_zero {w a : Nat} (ha : a < 2 ^ w) : addW w a 0 = a := Nat.mod_eq_of_lt ha

theorem addW_addW (w a j k : Nat) : addW w (addW w a j) k = addW w a (j + k) := by
  simp only [addW, Nat.mod_add_mod, Nat.add_assoc]

/-- What was added to an index is its distance from there (R134). -/
theorem subW_addW_self {w a k : Nat} (ha : a < 2 ^ w) (hk : k < 2 ^ w) : subW w (addW w a k) a = k := by
  rw [subW_eq (addW_lt ..) ha, addW]
  rcases Nat.lt_or_ge (a + k) (2 ^ w) with hlt | hge
  · rw [Nat.mod_eq_of_lt hlt]
    split_ifs <;> omega
  · rw [Nat.mod_eq_sub_mod hge, Nat.mod_eq_of_lt (by omega)]
    split_ifs <;> omega

/-- An index is any other with their distance added. -/
theorem addW_subW {w a b : Nat} (ha : a < 2 ^ w) (hb : b < 2 ^ w) : addW w b (subW w a b) = a := by
  rw [subW_eq ha hb, addW]
  split_ifs with hle
  · rw [Nat.add_sub_of_le hle, Nat.mod_eq_of_lt ha]
  · rw [show b + (a + 2 ^ w - b) = a + 2 ^ w by omega, Nat.add_mod_right, Nat.mod_eq_of_lt ha]

/-! ## Slots (R25, R121) -/

/-- A legal capacity is a power of two that divides the index range (R25). -/
theorem capLegal_eq_two_pow {w c : Nat} (h : capLegal w c = true) : ∃ n ≤ w, c = 2 ^ n := by
  obtain ⟨_, hle⟩ := capLegal_bounds h
  simp only [capLegal, isPowerOfTwo, Bool.and_eq_true, bne_iff_ne, beq_iff_eq] at h
  obtain ⟨n, rfl⟩ := Nat.ne_zero_and_sub_one_eq_zero_iff_isPowerOfTwo.mp h.1
  have hn : n ≤ w - 1 := (Nat.pow_le_pow_iff_right (by omega)).mp hle
  exact ⟨n, by omega, rfl⟩

/-- The slot of an index is the index modulo the capacity, wrapping or not (R121, R134). -/
theorem slot_addW {w cap : Nat} (h : capLegal w cap = true) (a k : Nat) :
    slot cap (addW w a k) = (a + k) % cap := by
  obtain ⟨n, hn, rfl⟩ := capLegal_eq_two_pow h
  rw [slot, Nat.and_two_pow_sub_one_eq_mod, addW, Nat.mod_mod_of_dvd _ (Nat.pow_dvd_pow 2 hn)]

/-- Indices less than a capacity apart have different slots (R133). -/
theorem slot_addW_ne {w cap j k : Nat} (h : capLegal w cap = true) (a : Nat) (hjk : j < k) (hk : k < cap) :
    slot cap (addW w a j) ≠ slot cap (addW w a k) := by
  rw [slot_addW h, slot_addW h]
  intro heq
  have hmod : j ≡ k [MOD cap] := Nat.ModEq.add_left_cancel' a heq
  exact Nat.ne_of_lt hjk (hmod.eq_of_lt_of_lt (hjk.trans hk) hk)

/-- Settles O10: a capacity is below the index range, so the distance is exact. -/
theorem wrapAroundLaw : Obligations.WrapAroundLaw := by
  refine ⟨fun w cap tail k hw hcap htail hk => subW_addW_self htail ?_, by decide⟩
  have hhalf : 2 ^ (w - 1) < 2 ^ w := Nat.pow_lt_pow_right (by omega) (by omega)
  omega

end Sys2Proof.Machine
end

section
/-! PROOFS. A ring as a bounded first-in first-out queue (R24, R132, R133): which bytes and counts an update of a
ring leaves, what a put and a get do to the queue, and when they fail. -/

namespace Sys2Proof.Machine

/-! ## What an update of a ring leaves -/

theorem RingId.space_ne {i j : RingId} : j ≠ i → j.space ≠ i.space := by
  cases i <;> cases j <;> decide

theorem State.memory_space (s : State) (i : RingId) : s.memory i.space = (s.ring i).buf := by
  cases i <;> rfl

/-- Of the four memories only the array of the ring is written. -/
theorem State.memory_setRing (s : State) (i : RingId) (r : Ring) (sp : Space) :
    (s.setRing i r).memory sp = if sp = i.space then r.buf else s.memory sp := by
  cases i <;> cases sp <;> rfl

/-- The bytes of the other spaces stay (R24). -/
theorem readByte_setRing_of_ne (s : State) {i : RingId} {sp : Space} (h : sp ≠ i.space) (r : Ring) (k : Nat) :
    (s.setRing i r).readByte sp k = s.readByte sp k := by
  simp only [State.readByte, State.memory_setRing, if_neg h, State.setRing_epoch]

/-- Moving an index changes no byte (R124). -/
theorem readByte_setRing_indices (s : State) (i : RingId) (h t : Nat) (sp : Space) (k : Nat) :
    (s.setRing i ⟨(s.ring i).buf, h, t⟩).readByte sp k = s.readByte sp k := by
  cases i <;> cases sp <;> rfl

/-- A store to the array changes the one byte (R65, R122). -/
theorem readByte_setRing_write (s : State) (i : RingId) (h t j : Nat) (b : Byte) (sp : Space) (k : Nat) :
    (s.setRing i ⟨Memory.write (s.ring i).buf j b, h, t⟩).readByte sp k =
      if sp = i.space ∧ k = j then b else s.readByte sp k := by
  by_cases hsp : sp = i.space
  · subst hsp
    simp only [State.readByte, State.memory_space, State.ring_setRing, State.setRing_epoch,
      Memory.lookup_write, true_and]
    split_ifs <;> rfl
  · rw [readByte_setRing_of_ne s hsp, if_neg (fun h => hsp h.1)]

theorem occupied_setRing (s : State) (i : RingId) (r : Ring) :
    (s.setRing i r).occupied i = subW s.params.rbW r.head r.tail := by
  simp only [State.occupied, State.setRing_params, State.ring_setRing]

/-- The other ring holds what it held (R24). -/
theorem contents_setRing_of_ne (s : State) {i j : RingId} (h : j ≠ i) (r : Ring) :
    (s.setRing i r).contents j = s.contents j := by
  simp only [State.contents, State.occupied, State.ringByte, State.setRing_params,
    State.ring_setRing_ne s h, readByte_setRing_of_ne s (RingId.space_ne h)]

/-! ## The queue -/

theorem contents_length (s : State) (i : RingId) : (s.contents i).length = s.occupied i := by
  simp only [State.contents, List.length_map, List.length_range]

theorem Params.capLegal_rbCap {p : Params} (h : p.legal = true) (i : RingId) :
    capLegal p.rbW (p.rbCap i) = true := by
  obtain ⟨_, _, _, hcap0, hcap1, _⟩ := Params.legal_iff.mp h
  cases i
  · exact hcap0
  · exact hcap1

/-- A put with room appends its byte: it lands at the slot of the head, which no stored byte has (R122, R133). -/
theorem contents_pushed {s : State} {i : RingId} (b : Byte) (hlegal : s.params.legal = true) (hok : s.RingOk i)
    (hroom : s.isFull i = false) :
    (s.setRing i ((s.ring i).pushed s.params i b)).contents i = s.contents i ++ [b] := by
  have hlt : s.occupied i < s.params.rbCap i := room_of_not_full hok hroom
  obtain ⟨hhead, htail, _⟩ := hok
  have hcap := (Params.rbCap_bounds hlegal i).2
  have hlast : addW s.params.rbW (s.ring i).tail (s.occupied i) = (s.ring i).head := addW_subW hhead htail
  have hcount : (s.setRing i ((s.ring i).pushed s.params i b)).occupied i = s.occupied i + 1 := by
    rw [occupied_setRing]
    exact subW_addW_left hhead htail (show s.occupied i + 1 < _ by omega)
  have hbyte : ∀ x, (s.setRing i ((s.ring i).pushed s.params i b)).ringByte i x =
      if slot (s.params.rbCap i) x = slot (s.params.rbCap i) (s.ring i).head then b else s.ringByte i x := by
    intro x
    simp only [State.ringByte, State.setRing_params, Ring.pushed, readByte_setRing_write, true_and]
  simp only [State.contents, hcount, List.range_succ, List.map_append, List.map_cons, List.map_nil, hbyte,
    State.setRing_params, State.ring_setRing]
  congr 1
  · refine List.map_congr_left fun k hk => if_neg ?_
    rw [← hlast]
    exact slot_addW_ne (Params.capLegal_rbCap hlegal i) _ (List.mem_range.mp hk) hlt
  · rw [Ring.pushed, hlast, if_pos rfl]

/-- A get takes the oldest byte and leaves the others in order (R124, R133). -/
theorem contents_popped {s : State} {i : RingId} (hok : s.RingOk i) (hbyte : s.isEmpty i = false) :
    s.contents i = s.ringByte i (s.ring i).tail :: (s.setRing i ((s.ring i).popped s.params)).contents i := by
  obtain ⟨hhead, htail, _⟩ := hok
  have hpos : 1 ≤ s.occupied i := byte_of_not_empty hbyte
  have hcount : (s.setRing i ((s.ring i).popped s.params)).occupied i = s.occupied i - 1 := by
    rw [occupied_setRing]
    exact subW_addW_right hhead htail hpos
  obtain ⟨n, hn⟩ := Nat.exists_eq_add_of_le' hpos
  simp only [State.contents, hcount, hn, Nat.add_sub_cancel, List.range_succ_eq_map, List.map_cons, List.map_map,
    addW_zero htail]
  congr 1
  refine List.map_congr_left fun k _ => ?_
  simp only [Function.comp_apply, State.ringByte, State.setRing_params, State.ring_setRing, Ring.popped,
    readByte_setRing_indices, addW_addW, Nat.succ_eq_add_one, Nat.add_comm 1 k]

/-- A put fails exactly when the ring is full (R122). -/
theorem ringPut_eq_none_iff {i : RingId} {b : Byte} {s : State} : ringPut i b s = none ↔ s.isFull i = true := by
  rcases ringPut_cases i b s with ⟨hf, e⟩ | ⟨hf, e⟩ <;> simp [hf, e]

/-- A get fails exactly when the ring is empty (R124). -/
theorem ringGet_eq_none_iff {i : RingId} {s : State} : ringGet i s = none ↔ s.isEmpty i = true := by
  rcases ringGet_cases i s with ⟨he, e⟩ | ⟨he, e⟩ <;> simp [he, e]

/-- Settles O15: a put that succeeds is `contents_pushed`, a get that succeeds `contents_popped`, and the counts of
the checks are the length of the queue. -/
theorem ringIsAQueue : Obligations.RingIsAQueue := by
  intro s t i j b hlegal hok hji
  refine ⟨fun hput => ?_, ?_, fun hget => ?_, ?_⟩
  · rcases ringPut_cases i b s with ⟨_, e⟩ | ⟨hroom, e⟩ <;> rw [e] at hput <;> cases hput
    exact ⟨contents_pushed b hlegal hok hroom, contents_setRing_of_ne s hji _⟩
  · rw [ringPut_eq_none_iff, contents_length, State.isFull, beq_iff_eq]
  · rcases ringGet_cases i s with ⟨_, e⟩ | ⟨hbyte, e⟩ <;> rw [e] at hget <;> cases hget
    exact ⟨contents_popped hok hbyte, contents_setRing_of_ne s hji _⟩
  · rw [ringGet_eq_none_iff, ← List.length_eq_zero_iff, contents_length, State.isEmpty, beq_iff_eq]

end Sys2Proof.Machine
end

section
/-! PROOFS. What the ring-buffer commands answer: the ring id check, the failures of a put and a get, and the queries
(R120 to R130). -/

namespace Sys2Proof.Machine

/-! ## The ring id check (R120) -/

theorem RingId.ofByte_eq_none {i : Byte} (h : 2 ≤ i.toNat) : RingId.ofByte i = none := by
  unfold RingId.ofByte
  split
  · exact absurd h (by decide)
  · exact absurd h (by decide)
  · rfl

/-- A query of a ring that exists answers with the value read and changes nothing else. -/
theorem ringQuery_of_id {i : Byte} {id : RingId} (h : RingId.ofByte i = some id) (f : RingId → Reply) (s : State) :
    ringQuery i f s = .next { s with trace := s.trace ++ [.result (f id).status (f id).value] } := by
  simp only [ringQuery, h]
  rfl

theorem ringQuery_of_no_id {i : Byte} (h : RingId.ofByte i = none) (f : RingId → Reply) (s : State) :
    ringQuery i f s = .next { s with trace := s.trace ++ [.result .illegalOperand 0#16] } := by
  simp only [ringQuery, h]
  rfl

section
variable {i : Byte} {s : State}

theorem exec_rbPut_of_no_id (b : Byte) (h : RingId.ofByte i = none) :
    exec (.rbPut i b) s = .next { s with trace := s.trace ++ [.result .illegalOperand 0#16] } := by
  change execRbPut i b s = _
  simp only [execRbPut, h]
  rfl

theorem exec_rbGet_of_no_id (h : RingId.ofByte i = none) :
    exec (.rbGet i) s = .next { s with trace := s.trace ++ [.result .illegalOperand 0#16] } := by
  change execRbGet i s = _
  simp only [execRbGet, h]
  rfl

variable {id : RingId} (hid : RingId.ofByte i = some id)
include hid

/-! ## The checks of a put and a get (R122, R124) -/

theorem exec_rbPut_of_id (b : Byte) : exec (.rbPut i b) s = .next (mainPutCheck id b s) := by
  change execRbPut i b s = _
  simp only [execRbPut, hid]

theorem exec_rbGet_of_id : exec (.rbGet i) s = .next (mainGetCheck id s) := by
  change execRbGet i s = _
  simp only [execRbGet, hid]

theorem exec_rbPut_full (b : Byte) (hfull : s.isFull id = true) :
    exec (.rbPut i b) s = .next { s with trace := s.trace ++ [.result .full 0#16] } := by
  rw [exec_rbPut_of_id hid, mainPutCheck, if_pos hfull]
  rfl

theorem exec_rbPut_room (b : Byte) (hroom : s.isFull id = false) :
    exec (.rbPut i b) s = .next (s.setMainRb (.put id (s.ring id).head b .checked)) := by
  rw [exec_rbPut_of_id hid, mainPutCheck, hroom, if_neg Bool.false_ne_true]

theorem exec_rbGet_empty (hempty : s.isEmpty id = true) :
    exec (.rbGet i) s = .next { s with trace := s.trace ++ [.result .empty 0#16] } := by
  rw [exec_rbGet_of_id hid, mainGetCheck, if_pos hempty]
  rfl

theorem exec_rbGet_byte (hbyte : s.isEmpty id = false) :
    exec (.rbGet i) s = .next (s.setMainRb (.get id (s.ring id).tail .checked)) := by
  rw [exec_rbGet_of_id hid, mainGetCheck, hbyte, if_neg Bool.false_ne_true]

end

/-- A ring id that names none ends each command of the family with `IllegalOperand` (R120). -/
theorem exec_ring_illegalOperand {i b : Byte} (h : RingId.ofByte i = none) (s : State) :
    ∀ c ∈ [Instr.rbPut i b, .rbGet i, .rbLen i, .rbPeek i b, .rbIsFull i, .rbIsEmpty i],
      exec c s = .next { s with trace := s.trace ++ [.result .illegalOperand 0#16] } := by
  simp only [List.forall_mem_cons]
  exact ⟨exec_rbPut_of_no_id b h, exec_rbGet_of_no_id h, ringQuery_of_no_id h _ s, ringQuery_of_no_id h _ s,
    ringQuery_of_no_id h _ s, ringQuery_of_no_id h _ s, by simp⟩

/-- The ring id is `arg[15:8]` in each command of the family (R91, R120). -/
theorem hiField_encode_ring (i b : Byte) :
    ∀ c ∈ [Instr.rbPut i b, .rbGet i, .rbLen i, .rbPeek i b, .rbIsFull i, .rbIsEmpty i], hiField (encode c) = i := by
  simp only [List.forall_mem_cons]
  exact ⟨hiField_word .., hiField_word .., hiField_word .., hiField_word .., hiField_word .., hiField_word ..,
    by simp⟩

/-- Settles O11: the ring id check of each command, and the checks of a put and a get. -/
theorem ringCommandFailures : Obligations.RingCommandFailures := by
  intro i b s
  refine ⟨fun hi c hc => ⟨hiField_encode_ring i b c hc, ?_⟩, fun id hid => ⟨?_, ?_⟩⟩
  · exact exec_ring_illegalOperand (RingId.ofByte_eq_none hi) s c hc
  · exact exec_rbPut_full hid b
  · exact exec_rbGet_empty hid

/-! ## The queries (R126 to R130) -/

/-- A count that fits its 16 bits is reported exactly (R96). -/
theorem toNat_count16 {n : Nat} (h : n < 2 ^ 16) : (count16 n).toNat = n := by
  rw [count16, if_pos h, BitVec.toNat_ofNat, Nat.mod_eq_of_lt h]

theorem bit16_beq (a b : Nat) : bit16 (a == b) = if a = b then 1#16 else 0#16 := by
  simp only [bit16, beq_iff_eq]

/-- Settles O14: each query answers with the value its definition reads, and `RB_PEEK` compares its offset with
the occupied count. -/
theorem ringQueriesReportWithoutConsuming : Obligations.RingQueriesReportWithoutConsuming := by
  intro s i n id hid
  refine ⟨⟨_, ringQuery_of_id hid _ s, toNat_count16⟩, ?_, ?_, fun hstored => ?_, fun hpast => ?_⟩
  · rw [← bit16_beq]
    exact ringQuery_of_id hid _ s
  · rw [← bit16_beq]
    exact ringQuery_of_id hid _ s
  · refine (ringQuery_of_id hid _ s).trans ?_
    rw [if_neg (Nat.not_le.mpr hstored)]
    rfl
  · refine (ringQuery_of_id hid _ s).trans ?_
    rw [if_pos hpast]

end Sys2Proof.Machine
end

section
/-! PROOFS. An uninterrupted put and get of Main, step by step from the command port (R122, R124, R131). -/

namespace Sys2Proof.Machine

/-! ## The in-flight record beside the rings -/

theorem setMainRb_eq_self {s : State} {m : MainRb} (h : s.mainRb = m) : s.setMainRb m = s := by
  subst h
  rfl

theorem readByte_setMainRb (s : State) (m : MainRb) (sp : Space) (k : Nat) :
    (s.setMainRb m).readByte sp k = s.readByte sp k := by
  cases sp <;> rfl

/-- An update of a ring leaves Main as free as it was. -/
theorem mainFree_setRing {s : State} (h : s.MainFree) (i : RingId) (r : Ring) : (s.setRing i r).MainFree := by
  simpa only [State.MainFree, State.nextInterrupt, State.setRing_env, State.setRing_params, State.setRing_beacon,
    State.setRing_mainRb, State.setRing_service] using h

/-- A store and then the head published are the whole put (R122, R132). -/
theorem publishHead_store (s : State) (i : RingId) (b : Byte) :
    ringPublishHead i (s.ring i).head (ringStore i (s.ring i).head b s) =
      s.setRing i ((s.ring i).pushed s.params i b) := by
  cases i <;> rfl

/-! ## The micro-steps of Main (R131) -/

theorem mainMicroStep_putChecked (s : State) (i : RingId) (h : Nat) (b : Byte) :
    mainMicroStep (s.setMainRb (.put i h b .checked)) =
      some ((ringStore i h b s).setMainRb (.put i h b .stored)) := by
  cases i <;> rfl

theorem mainMicroStep_putStored (s : State) (i : RingId) (h : Nat) (b : Byte) :
    mainMicroStep (s.setMainRb (.put i h b .stored)) =
      some (((ringPublishHead i h s).setMainRb .none).finish ⟨.ok, 0#16⟩) := by
  cases i <;> rfl

theorem mainMicroStep_getChecked (s : State) (i : RingId) (t : Nat) :
    mainMicroStep (s.setMainRb (.get i t .checked)) =
      some (s.setMainRb (.get i t (.loaded (s.ringByte i t)))) := by
  cases i <;> rfl

/-- A get that is Main's own, not of a `BEACON_SERVICE`, ends with its byte (R124). -/
theorem mainGetDone_of_idle {s : State} (hv : s.service = .idle) (v : Byte) :
    mainGetDone v s = s.finish ⟨.ok, zext16 v⟩ := by
  simp only [mainGetDone, hv]

theorem mainMicroStep_getLoaded {s : State} (hv : s.service = .idle) (i : RingId) (t : Nat) (v : Byte) :
    mainMicroStep (s.setMainRb (.get i t (.loaded v))) =
      some (((ringPublishTail i t s).setMainRb .none).finish ⟨.ok, zext16 v⟩) := by
  have hidle : ((ringPublishTail i t s).setMainRb .none).service = .idle := by
    rw [State.setMainRb_service, ringPublishTail, State.setRing_service, hv]
  have hdone := mainGetDone_of_idle hidle v
  cases i <;> exact congrArg some hdone

section
variable {s : State} (hfree : s.MainFree)
include hfree

/-- A command word on the port of a free Main: the step is the command (R69, R90). -/
theorem step_of_encode {i : Instr} {rest : List Request} (hr : s.env.requests = .command (encode i) :: rest) :
    step s = exec i { s with env := { s.env with requests := rest } } := by
  obtain ⟨ht, hi, hm, hv⟩ := hfree
  exact (stepRunsTheDecodedCommand s _ rest i hi hm hv hr (decode_encode i)).1 ht

/-- With a command of its own in flight, an uninterrupted Main makes its next micro-step (R131). -/
theorem step_setMainRb {m : MainRb} {t : State} (h : mainMicroStep (s.setMainRb m) = some t) :
    step (s.setMainRb m) = .next t := by
  obtain ⟨ht, hi, _⟩ := hfree
  exact step_of_mainMicroStep (s := s.setMainRb m) ht hi h

theorem setRing_setMainRb_none (i : RingId) (r : Ring) : (s.setRing i r).setMainRb .none = s.setRing i r := by
  obtain ⟨_, _, hm, _⟩ := mainFree_setRing hfree i r
  exact setMainRb_eq_self hm

/-- P2 of an uninterrupted put. -/
theorem step_putChecked (i : RingId) (h : Nat) (b : Byte) :
    step (s.setMainRb (.put i h b .checked)) = .next ((ringStore i h b s).setMainRb (.put i h b .stored)) :=
  step_setMainRb hfree (mainMicroStep_putChecked s i h b)

/-- P3 of an uninterrupted put, after its P2. -/
theorem step_putStored (i : RingId) (b : Byte) :
    step ((ringStore i (s.ring i).head b s).setMainRb (.put i (s.ring i).head b .stored)) =
      .next ((s.setRing i ((s.ring i).pushed s.params i b)).finish ⟨.ok, 0#16⟩) := by
  have hstored : (ringStore i (s.ring i).head b s).MainFree := mainFree_setRing hfree i _
  rw [step_setMainRb hstored (mainMicroStep_putStored _ i _ b), publishHead_store, setRing_setMainRb_none hfree]

/-- G2 of an uninterrupted get. -/
theorem step_getChecked (i : RingId) (t : Nat) :
    step (s.setMainRb (.get i t .checked)) = .next (s.setMainRb (.get i t (.loaded (s.ringByte i t)))) :=
  step_setMainRb hfree (mainMicroStep_getChecked s i t)

/-- G3 of an uninterrupted get. -/
theorem step_getLoaded (i : RingId) (v : Byte) :
    step (s.setMainRb (.get i (s.ring i).tail (.loaded v))) =
      .next ((s.setRing i ((s.ring i).popped s.params)).finish ⟨.ok, zext16 v⟩) := by
  have ⟨_, _, _, hv⟩ := hfree
  rw [step_setMainRb hfree (mainMicroStep_getLoaded hv i _ v), ringPublishTail, setRing_setMainRb_none hfree]
  rfl

end

/-- Three steps that follow one another, as the runs of two and of three steps. -/
theorem run_two_and_three {s a b c : State} (h1 : step s = .next a) (h2 : step a = .next b) (h3 : step b = .next c) :
    runSteps 2 s = .next b ∧ runSteps 3 s = .next c :=
  ⟨by rw [runSteps_succ h1, runSteps_one, h2], by rw [runSteps_succ h1, runSteps_succ h2, runSteps_one, h3]⟩

/-- A finished update of a ring in the state with the command taken, as a record update. -/
theorem setRing_finish_eq (s : State) (i : RingId) (r : Ring) (e : Env) (x : Reply) :
    (({ s with env := e } : State).setRing i r).finish x =
      { s.setRing i r with trace := s.trace ++ [.result x.status x.value], env := e } := by
  cases i <;> rfl

/-- Settles O12: the check is P1, and the two micro-steps after it are P2 and P3. -/
theorem rbPutStoresThenPublishes : Obligations.RbPutStoresThenPublishes := by
  intro s i b id hid hroom
  refine ⟨exec_rbPut_room hid b hroom, fun rest hfree hr => ?_⟩
  have hcheck := (step_of_encode hfree hr).trans (exec_rbPut_room hid b hroom)
  have htaken : State.MainFree { s with env := { s.env with requests := rest } } := hfree
  obtain ⟨hrun2, hrun3⟩ := run_two_and_three hcheck (step_putChecked htaken id _ b) (step_putStored htaken id b)
  rw [setRing_finish_eq] at hrun3
  refine ⟨_, _, hrun2, hrun3, rfl, ?_, ?_, rfl, fun sp k hother => ?_⟩
  · cases id <;> rfl
  · rw [readByte_setMainRb]
    exact (readByte_setRing_write _ id _ _ _ b _ _).trans (if_pos ⟨rfl, rfl⟩)
  · exact (readByte_setRing_write s id _ _ _ b sp k).trans (if_neg hother)

/-- Settles O13: the check is G1, and the two micro-steps after it are G2 and G3. -/
theorem rbGetLoadsThenPublishes : Obligations.RbGetLoadsThenPublishes := by
  intro s i id hid hbyte
  refine ⟨exec_rbGet_byte hid hbyte, fun rest hfree hr => ?_⟩
  have hcheck := (step_of_encode hfree hr).trans (exec_rbGet_byte hid hbyte)
  have htaken : State.MainFree { s with env := { s.env with requests := rest } } := hfree
  obtain ⟨hrun2, hrun3⟩ := run_two_and_three hcheck (step_getChecked htaken id _) (step_getLoaded htaken id _)
  rw [setRing_finish_eq] at hrun3
  exact ⟨_, _, hrun2, hrun3, rfl, rfl, rfl, readByte_setRing_indices s id _ _⟩

end Sys2Proof.Machine
end

section
/-! PROOFS. The register commands: one transaction each, on a bus that answers and on one whose transport fails, and
the count checks before it (R141, R147 to R152, R182). -/

namespace Sys2Proof.Machine

/-! ## The answer after one transaction (R141, R147) -/

/-- A reply after one successful transaction, as a record update. -/
theorem answer_afterTxn (r : Reply) (s : State) (d : Dir) (a : RegAddr) (sent received : List Byte) :
    answer (r, s.afterTxn d a sent received) = .next { s with
      trace := s.trace ++ [.spi d a sent received, .result r.status r.value]
      env := { s.env with answers := s.env.answers.tail } } := by
  simp [answer, State.finish, State.emit, State.afterTxn, State.dropAnswer, State.setEnv]

/-- The reply after one transaction the transport failed, as a record update (R147). -/
theorem answer_failedTxn (s : State) (d : Dir) (a : RegAddr) (sent received : List Byte) :
    answer (.transportError, (s.afterTxn d a sent received).setSpiFault) = .next { s with
      spiFault := true
      trace := s.trace ++ [.spi d a sent received, .result .transportError 0#16]
      env := { s.env with answers := s.env.answers.tail } } := by
  simp [answer, State.finish, State.emit, State.afterTxn, State.dropAnswer, State.setEnv, State.setSpiFault,
    Reply.transportError]

/-- A single read on a healthy bus gives the bytes received. -/
theorem busRun_singleRead_healthy {s : State} (h : s.BusHealthy 1) (a : RegAddr) (n : Nat) :
    busRun [.read a n] s = (some (s.receivedBytes a n),
      s.afterTxn .rd a (List.replicate n 0x00#8) (s.receivedBytes a n)) := by
  rw [busRun_read_healthy h]
  simp only [busRun, Option.map_some, List.append_nil]

/-- A single write on a healthy bus. -/
theorem busRun_singleWrite_healthy {s : State} (h : s.BusHealthy 1) (a : RegAddr) (data : List Byte) :
    busRun [.write a data] s = (some [], s.afterTxn .wr a data []) :=
  busRun_write_healthy h a data []

/-! ## A bus that answers (R148 to R151) -/

section

variable {s : State} (h : s.BusHealthy 1)

include h

theorem exec_regRead_healthy {a : RegAddr} {v : Byte} (hv : s.receivedBytes a 1 = [v]) :
    exec (.regRead a) s = answer (⟨.ok, zext16 v⟩, s.afterTxn .rd a [0x00#8] [v]) := by
  simp only [exec, execRegRead, BusOp.regRead, busRun_singleRead_healthy h, hv, List.replicate_one]

theorem exec_regWrite_healthy (a : RegAddr) (v : Byte) :
    exec (.regWrite a v) s = answer (⟨.ok, 0#16⟩, s.afterTxn .wr a [v] []) := by
  simp only [exec, execRegWrite, BusOp.regWrite, busRun_singleWrite_healthy h]

theorem exec_regBurstRead_healthy (a : RegAddr) {n : Byte} (hn : burstCountOk n = true) :
    exec (.regBurstRead a n) s = answer (⟨.ok, zext16 n⟩,
      (s.setXfer (Memory.writeAll s.xfer 0 (s.receivedBytes a n.toNat))).afterTxn .rd a
        (List.replicate n.toNat 0x00#8) (s.receivedBytes a n.toNat)) := by
  simp only [exec, execRegBurstRead, hn, if_true, busRun_singleRead_healthy h]
  rfl

theorem exec_regBurstWrite_healthy (a : RegAddr) {n : Byte} (hn : burstCountOk n = true) :
    exec (.regBurstWrite a n) s = answer (⟨.ok, zext16 n⟩, s.afterTxn .wr a (s.xferBytes n.toNat) []) := by
  simp only [exec, execRegBurstWrite, hn, if_true, busRun_singleWrite_healthy h]

end

/-- Settles O21: the one transaction of each command, on a healthy bus. -/
theorem regReadAndRegWrite : Obligations.RegReadAndRegWrite := by
  intro s a h
  obtain ⟨v, hv⟩ := receivedBytes_one s a
  refine ⟨⟨v, hv, ?_⟩, fun w => ?_⟩
  · rw [exec_regRead_healthy h hv, answer_afterTxn]
    rfl
  · rw [exec_regWrite_healthy h, answer_afterTxn]

/-- Settles O23: the one transaction of the command, on a healthy bus. -/
theorem regBurstWriteSendsXfer : Obligations.RegBurstWriteSendsXfer := by
  intro s a n h h1 h64
  rw [exec_regBurstWrite_healthy h a (burstCountOk_of_bounds h1 h64), answer_afterTxn]
  rfl

/-! ## XFER after a burst read (R150) -/

/-- Bytes written to XFER from its first one on: those are read back, and no other byte of a space moves. -/
theorem readByte_setXfer_writeAll (s : State) (bytes : List Byte) (sp : Space) (k : Nat) :
    (s.setXfer (Memory.writeAll s.xfer 0 bytes)).readByte sp k =
      if sp = .xfer then bytes[k]?.getD (s.readByte .xfer k) else s.readByte sp k := by
  cases sp with
  | rb0 | rb1 | msg => rfl
  | xfer =>
    simp only [State.readByte, State.memory, State.setXfer_xfer, State.setXfer_epoch, Memory.lookup_writeAll,
      Nat.zero_le, Nat.zero_add, true_and, Nat.sub_zero, if_true]
    by_cases hk : k < bytes.length
    · simp only [hk, if_true, List.getElem?_eq_getElem hk, Option.getD_some]
    · simp only [hk, if_false, List.getElem?_eq_none (Nat.le_of_not_lt hk), Option.getD_none]

/-- Settles O22: on a healthy bus the bytes received are written to XFER from its first byte on. -/
theorem regBurstReadFillsXfer : Obligations.RegBurstReadFillsXfer := by
  intro s a n h h1 h64
  have hexec := exec_regBurstRead_healthy h a (burstCountOk_of_bounds h1 h64)
  have hlength : (s.receivedBytes a n.toNat).length = n.toNat := receivedBytes_length s a n.toNat
  generalize s.receivedBytes a n.toNat = bytes at hexec hlength ⊢
  rw [answer_afterTxn] at hexec
  refine ⟨_, hexec, rfl, hlength, fun k hk => ?_, fun sp k hother => ?_⟩
  · refine Eq.trans ?_ (congrArg some (readByte_setXfer_writeAll s bytes .xfer k).symm)
    simp [hlength, hk]
  · refine (readByte_setXfer_writeAll s bytes sp k).trans ?_
    split
    · subst sp
      have hout : bytes.length ≤ k := by simpa [hlength] using hother
      rw [List.getElem?_eq_none hout, Option.getD_none]
    · rfl

/-! ## The count checks (R150 to R152, R182, R284, R287) -/

theorem burstCountOk_eq_false {n : Byte} (h : n.toNat = 0 ∨ 64 < n.toNat) : burstCountOk n = false := by
  rcases h with h0 | h64
  · cases BitVec.eq_of_toNat_eq (y := 0#8) h0
    rfl
  · have hgt : ¬ n.toNat ≤ Config.xferSize := Nat.not_le.mpr h64
    simp [burstCountOk, hgt]

section

variable {n : Byte} (s : State)

theorem exec_regBurstRead_badCount (a : RegAddr) (hn : burstCountOk n = false) :
    exec (.regBurstRead a n) s = answer (.illegalOperand, s) := by
  simp only [exec, execRegBurstRead, hn, Bool.false_eq_true, if_false]

theorem exec_regBurstWrite_badCount (a : RegAddr) (hn : burstCountOk n = false) :
    exec (.regBurstWrite a n) s = answer (.illegalOperand, s) := by
  simp only [exec, execRegBurstWrite, hn, Bool.false_eq_true, if_false]

theorem exec_radioLoadPacket_tooLarge (hn : Config.fifoCapacity < n.toNat) :
    exec (.radioLoadPacket n) s = answer (⟨.payloadTooLarge, 0#16⟩, s) := by
  simp only [exec, execRadioLoadPacket, hn, if_true]

end

/-- Settles O24: each check comes before the first transaction of its command. -/
theorem burstAndPayloadCountsChecked : Obligations.BurstAndPayloadCountsChecked := by
  intro s a n
  refine ⟨fun hn => ?_, fun hn => exec_radioLoadPacket_tooLarge s hn⟩
  have hbad := burstCountOk_eq_false hn
  exact ⟨exec_regBurstRead_badCount s a hbad, exec_regBurstWrite_badCount s a hbad⟩

end Sys2Proof.Machine
end

section
/-! PROOFS. A command whose transport fails: what it did before stays, the failed transaction is the last thing traced
before its `TransportError`, and nothing after it happens (R141, R147). -/

namespace Sys2Proof.Machine

/-! ## Events that are no transactions -/

/-- Only events other than SPI transactions are added to the trace. -/
structure AddsNoSpi (s t : State) : Prop where
  extends_trace : s.trace <+: t.trace
  spiEvents : t.spiEvents = s.spiEvents

theorem AddsNoSpi.of_trace_eq {s t : State} (h : t.trace = s.trace) : AddsNoSpi s t :=
  ⟨h ▸ List.prefix_refl _, by rw [State.spiEvents, h, State.spiEvents]⟩

theorem AddsNoSpi.refl (s : State) : AddsNoSpi s s := .of_trace_eq rfl

theorem AddsNoSpi.trans {s t u : State} (h : AddsNoSpi s t) (k : AddsNoSpi t u) : AddsNoSpi s u :=
  ⟨h.extends_trace.trans k.extends_trace, k.spiEvents.trans h.spiEvents⟩

theorem addsNoSpi_finish (s : State) (r : Reply) : AddsNoSpi s (s.finish r) :=
  ⟨List.prefix_append _ _, by simp [State.spiEvents, State.finish, TraceEvent.isSpi]⟩

/-! ## The transactions of a sequence of bus actions -/

theorem spiEvents_afterTxn (s : State) (d : Dir) (a : RegAddr) (sent received : List Byte) :
    (s.afterTxn d a sent received).spiEvents = s.spiEvents ++ [.spi d a sent received] := by
  simp [State.spiEvents, State.afterTxn, TraceEvent.isSpi]

/-- On a healthy bus every transaction of a sequence is made. -/
theorem length_spiEvents_busRun {ops : List BusOp} {s : State} (h : s.BusHealthy (transactions ops)) :
    (busRun ops s).2.spiEvents.length = s.spiEvents.length + transactions ops := by
  induction ops generalizing s with
  | nil => rfl
  | cons op ops ih =>
    cases op with
    | delay d =>
      have hdelay : (s.emit (.delay d)).spiEvents = s.spiEvents := by simp [State.spiEvents, TraceEvent.isSpi]
      exact (ih (s := s.emit (.delay d)) h).trans (by rw [hdelay, transactions])
    | write a data =>
      have hrest := ih (BusHealthy.next h .wr a data [])
      rw [busRun_write_healthy h, hrest, spiEvents_afterTxn, List.length_append, transactions]
      simp only [List.length_singleton]
      omega
    | read a n =>
      have hrest := ih (BusHealthy.next h .rd a (List.replicate n 0x00#8) (s.receivedBytes a n))
      rw [busRun_read_healthy h, hrest, spiEvents_afterTxn, List.length_append, transactions]
      simp only [List.length_singleton]
      omega

/-! ## Commands as bus actions -/

/-- The outcome is that of a command which makes the bus actions `ops` from `s` and replies: a failure ends it with
`TransportError` and without any further action, and what it does beside them is no transaction (R147). -/
structure MakesBusActions (s : State) (ops : List BusOp) (o : Host.Outcome State Fault Refusal) : Prop where
  fails : ∀ u, busRun ops s = (none, u) → o = answer (.transportError, u)
  addsNoSpi : ∀ t, o = .next t → AddsNoSpi (busRun ops s).2 t

section

variable {s : State} {ops : List BusOp}

/-- An outcome without bus actions. -/
theorem MakesBusActions.of_addsNoSpi {t : State} (h : AddsNoSpi s t) : MakesBusActions s [] (.next t) :=
  ⟨fun u hu => by simp [busRun] at hu, fun _ ht => Host.Outcome.next.inj ht ▸ h⟩

/-- A reply without bus actions. -/
theorem MakesBusActions.of_trace_eq {x : Reply × State} (h : x.2.trace = s.trace) : MakesBusActions s [] (answer x) :=
  .of_addsNoSpi ((AddsNoSpi.of_trace_eq h).trans (addsNoSpi_finish _ _))

/-- A reply after bus actions that succeeded. -/
theorem MakesBusActions.of_succeeds {bytes : List Byte} {u : State} {x : Reply × State}
    (h : busRun ops s = (some bytes, u)) (hx : AddsNoSpi u x.2) : MakesBusActions s ops (answer x) where
  fails v hv := by rw [h] at hv; cases hv
  addsNoSpi t ht := by
    cases ht
    rw [h]
    exact hx.trans (addsNoSpi_finish _ _)

/-- The reply `TransportError` after bus actions. -/
theorem MakesBusActions.transportError {y : Option (List Byte)} {u : State} (h : busRun ops s = (y, u)) :
    MakesBusActions s ops (answer (.transportError, u)) where
  fails v hv := by rw [h] at hv; cases hv; rfl
  addsNoSpi t ht := by
    cases ht
    rw [h]
    exact addsNoSpi_finish _ _

end

/-- The bus actions of an operand of `SetState` (R171, R172). -/
def setStateActions (s : State) (b : Byte) : List BusOp :=
  ((RadioState.ofByte b).bind RadioState.target).elim [] (transitionWrites s.params s.radioState)

/-- The bus actions of a mode operand of `BEACON_START` (R252). -/
def startActions (s : State) (m : Byte) : List BusOp :=
  (Mode.ofOperand m).elim [] fun mode =>
    if s.beacon.mode = .off ∧ mode.setsXmitDirect then transitionWrites s.params s.radioState .xmitDirect else []

/-- The bus actions of a command, when none of them fails; the transition of BEACON_STOP and of BEACON_SERVICE
apart. -/
def busActions (s : State) : Instr → List BusOp
  | .regRead a => [.regRead a]
  | .regWrite a v => [.regWrite a v]
  | .regBurstRead a n => if burstCountOk n then [.read a n.toNat] else []
  | .regBurstWrite a n => if burstCountOk n then [.write a (s.xferBytes n.toNat)] else []
  | .radioReset =>
    [.regWrite s.params.radio.regOpmode1 s.params.radio.bitSwres, .delay .resetDelay,
      .regRead s.params.radio.regIntStatus1, .regRead s.params.radio.regIntStatus2]
  | .radioCheckId => [.regRead s.params.radio.regDeviceType, .regRead s.params.radio.regDeviceVersion]
  | .radioApplyConfig k => (s.params.profile k).elim [] configWrites
  | .radioSetState b => setStateActions s b
  | .radioLoadPacket n =>
    if Config.fifoCapacity < n.toNat then [] else loadPacketOps s.params n (s.xferBytes n.toNat)
  | .beaconStart m => startActions s m
  | .rbPut _ _ | .rbGet _ | .rbLen _ | .rbPeek _ _ | .rbIsFull _ | .rbIsEmpty _ | .morseStart _ | .morseTick
  | .pnInit _ | .pnTick | .beaconStop | .beaconService | .beaconStatus _ => []

theorem busActions_healed (s : State) (i : Instr) : busActions s.healed i = busActions s i := by
  cases i <;> rfl

/-! ## The commands -/

section

variable (s : State)

theorem execRbPut_busActions (k b : Byte) : MakesBusActions s [] (execRbPut k b s) := by
  unfold execRbPut mainPutCheck
  split
  · exact .of_addsNoSpi (addsNoSpi_finish _ _)
  · split
    · exact .of_addsNoSpi (addsNoSpi_finish _ _)
    · exact .of_addsNoSpi (.of_trace_eq rfl)

theorem execRbGet_busActions (k : Byte) : MakesBusActions s [] (execRbGet k s) := by
  unfold execRbGet mainGetCheck
  split
  · exact .of_addsNoSpi (addsNoSpi_finish _ _)
  · split
    · exact .of_addsNoSpi (addsNoSpi_finish _ _)
    · exact .of_addsNoSpi (.of_trace_eq rfl)

theorem execRegRead_busActions (a : RegAddr) : MakesBusActions s [.regRead a] (execRegRead a s) := by
  unfold execRegRead
  split
  · exact .of_succeeds ‹_› (.refl _)
  · exact .transportError ‹_›

theorem execRegWrite_busActions (a : RegAddr) (v : Byte) :
    MakesBusActions s [.regWrite a v] (execRegWrite a v s) := by
  unfold execRegWrite
  split
  · exact .of_succeeds ‹_› (.refl _)
  · exact .transportError ‹_›

theorem execRegBurstRead_busActions (a : RegAddr) (n : Byte) :
    MakesBusActions s (busActions s (.regBurstRead a n)) (execRegBurstRead a n s) := by
  unfold execRegBurstRead
  rw [busActions]
  split
  · split
    · rename_i e
      exact .of_succeeds e (.of_trace_eq rfl)
    · exact .transportError ‹_›
  · exact .of_trace_eq rfl

theorem execRegBurstWrite_busActions (a : RegAddr) (n : Byte) :
    MakesBusActions s (busActions s (.regBurstWrite a n)) (execRegBurstWrite a n s) := by
  unfold execRegBurstWrite
  rw [busActions]
  split
  · split
    · exact .of_succeeds ‹_› (.refl _)
    · exact .transportError ‹_›
  · exact .of_trace_eq rfl

theorem execRadioReset_busActions : MakesBusActions s (busActions s .radioReset) (execRadioReset s) := by
  unfold execRadioReset
  dsimp only
  split
  · exact .of_succeeds ‹_› (.refl _)
  · exact .transportError ‹_›

theorem execRadioCheckId_busActions : MakesBusActions s (busActions s .radioCheckId) (execRadioCheckId s) := by
  unfold execRadioCheckId
  dsimp only
  split
  · exact .of_succeeds ‹_› (.refl _)
  · exact .transportError ‹_›

theorem execRadioApplyConfig_busActions (k : Byte) :
    MakesBusActions s (busActions s (.radioApplyConfig k)) (execRadioApplyConfig k s) := by
  unfold execRadioApplyConfig
  rw [busActions]
  cases s.params.profile k with
  | none => exact .of_trace_eq rfl
  | some l =>
    dsimp only [Option.elim_some]
    split
    · exact .of_succeeds ‹_› (.refl _)
    · exact .transportError ‹_›

theorem execRadioLoadPacket_busActions (n : Byte) :
    MakesBusActions s (busActions s (.radioLoadPacket n)) (execRadioLoadPacket n s) := by
  unfold execRadioLoadPacket
  rw [busActions]
  split
  · exact .of_trace_eq rfl
  · split
    · exact .of_succeeds ‹_› (.refl _)
    · exact .transportError ‹_›

theorem enterTarget_busActions (g : Target) :
    MakesBusActions s (transitionWrites s.params s.radioState g) (answer (enterTarget g s)) := by
  unfold enterTarget
  split
  · rename_i e
    exact .of_succeeds e (.of_trace_eq rfl)
  · exact .transportError ‹_›

theorem setState_busActions (b : Byte) : MakesBusActions s (setStateActions s b) (answer (setState b s)) := by
  rcases setState_cases b s with ⟨hr, e⟩ | ⟨r, hr, hg, e⟩ | ⟨r, g, hr, hg, _, e⟩ <;> rw [setStateActions, hr, e]
  · exact .of_trace_eq rfl
  · rw [Option.bind_some, hg]
    exact .of_trace_eq rfl
  · rw [Option.bind_some, hg]
    exact enterTarget_busActions s g

theorem execMorseStart_busActions (len : Half) : MakesBusActions s [] (execMorseStart len s) := by
  unfold execMorseStart
  split <;> exact .of_trace_eq rfl

theorem execPnInit_busActions (seed : Half) : MakesBusActions s [] (execPnInit seed s) := by
  unfold execPnInit
  split <;> exact .of_trace_eq rfl

theorem Started.addsNoSpi {m : Mode} {u v : State} (h : Started m u v) : AddsNoSpi u v :=
  ⟨h.extends_trace, h.silent⟩

theorem startMode_busActions (m : Mode) : MakesBusActions s
    (if m.setsXmitDirect then transitionWrites s.params s.radioState .xmitDirect else []) (answer (startMode m s)) := by
  unfold startMode
  cases m.setsXmitDirect with
  | false => exact .of_addsNoSpi ((started m s).addsNoSpi.trans (addsNoSpi_finish _ _))
  | true =>
    unfold enterTarget
    dsimp only [if_true]
    rcases e : busRun (transitionWrites s.params s.radioState .xmitDirect) s with ⟨_ | bytes, u⟩
    · exact .transportError e
    · have hset : AddsNoSpi u (u.setRadioState Target.xmitDirect.state) := .of_trace_eq rfl
      exact .of_succeeds e (hset.trans (started m _).addsNoSpi)

theorem execBeaconStart_busActions (m : Byte) :
    MakesBusActions s (startActions s m) (execBeaconStart m s) := by
  unfold execBeaconStart startActions
  cases Mode.ofOperand m with
  | none => exact .of_trace_eq rfl
  | some mode =>
    by_cases hoff : s.beacon.mode = .off
    · simp only [Option.elim_some, hoff, if_true, true_and]
      exact startMode_busActions s mode
    · simp only [Option.elim_some, hoff, if_false, false_and]
      exact .of_trace_eq rfl

end

/-- What every command but the two whose transition is not the whole of them does on the bus (R147). -/
theorem exec_busActions {i : Instr} (hstop : i ≠ .beaconStop) (hservice : i ≠ .beaconService) (s : State) :
    MakesBusActions s (busActions s i) (exec i s) := by
  cases i with
  | rbPut k b => exact execRbPut_busActions s k b
  | rbGet k => exact execRbGet_busActions s k
  | rbLen | rbPeek | rbIsFull | rbIsEmpty | beaconStatus | morseTick | pnTick => exact .of_trace_eq rfl
  | regRead a => exact execRegRead_busActions s a
  | regWrite a v => exact execRegWrite_busActions s a v
  | regBurstRead a n => exact execRegBurstRead_busActions s a n
  | regBurstWrite a n => exact execRegBurstWrite_busActions s a n
  | radioReset => exact execRadioReset_busActions s
  | radioCheckId => exact execRadioCheckId_busActions s
  | radioApplyConfig k => exact execRadioApplyConfig_busActions s k
  | radioSetState b => exact setState_busActions s b
  | radioLoadPacket n => exact execRadioLoadPacket_busActions s n
  | morseStart len => exact execMorseStart_busActions s len
  | pnInit seed => exact execPnInit_busActions s seed
  | beaconStart m => exact execBeaconStart_busActions s m
  | beaconStop => exact absurd rfl hstop
  | beaconService => exact absurd rfl hservice

/-! ## The run that fails beside the run in which nothing does -/

/-- The outcome `o` of a command in `s` stops at its first failed transaction: beside the state `h` in which nothing
failed, it has the events up to that transaction and then `TransportError` (R147). -/
def StopsAtFailure (s h : State) (o : Host.Outcome State Fault Refusal) : Prop :=
  ∀ (es : List TraceEvent) (st : Status) (r : Half) (k : Nat), s.FailsAt k →
    h.trace = s.trace ++ es ++ [.result st r] → k < (es.filter TraceEvent.isSpi).length →
    ∃ before failed after, es = before ++ failed :: after ∧ failed.isSpi = true ∧
      (before.filter TraceEvent.isSpi).length = k ∧
      o = answer (.transportError, s.afterFailure (before ++ [failed]) (k + 1))

/-- An entry of a list that is not its last one is an entry of the rest. -/
theorem eq_append_cons_of_concat {α : Type*} {l before after : List α} {x y : α} (hne : x ≠ y)
    (h : l ++ [y] = before ++ x :: after) : ∃ rest, l = before ++ x :: rest := by
  rcases List.eq_nil_or_concat after with rfl | ⟨rest, z, rfl⟩
  · obtain ⟨_, hlast⟩ := List.append_inj' h rfl
    exact absurd (List.singleton_inj.mp hlast).symm hne
  · rw [List.concat_eq_append, ← List.cons_append, ← List.append_assoc] at h
    exact ⟨rest, (List.append_inj' h rfl).1⟩

theorem stopsAtFailure_of_busActions {s h : State} {ops : List BusOp} {o : Host.Outcome State Fault Refusal}
    (hs : MakesBusActions s ops o) (hhealed : MakesBusActions s.healed ops (.next h)) : StopsAtFailure s h o := by
  intro es st r k hfails htrace hk
  have hbeside := hhealed.addsNoSpi h rfl
  have hcount : k < transactions ops := by
    have hlength := length_spiEvents_busRun (healed_busHealthy hfails.1 (transactions ops))
    rw [← hbeside.spiEvents, State.spiEvents, htrace] at hlength
    have hevents : s.healed.spiEvents = s.trace.filter TraceEvent.isSpi := rfl
    simp only [hevents, List.filter_append, List.length_append, TraceEvent.isSpi, List.filter_cons, List.filter_nil,
      Bool.false_eq_true, if_false, List.length_nil] at hlength
    omega
  obtain ⟨before, failed, after, hrun, hspi, hbefore, hfailed⟩ := busRun_failsAt hfails hcount
  obtain ⟨extra, hextra⟩ := hbeside.extends_trace
  have hjoin : es ++ [.result st r] = before ++ failed :: (after ++ extra) := by
    rw [htrace, hrun, List.append_assoc, List.append_assoc, List.append_assoc] at hextra
    exact (List.append_cancel_left hextra).symm
  have hne : failed ≠ .result st r := by
    rintro rfl
    cases hspi
  obtain ⟨rest, hes⟩ := eq_append_cons_of_concat hne hjoin
  exact ⟨before, failed, rest, hes, hspi, hbefore, hs.fails _ hfailed⟩

theorem exec_stopsAtFailure {i : Instr} (hstop : i ≠ .beaconStop) (hservice : i ≠ .beaconService) {s h : State}
    (hexec : exec i s.healed = .next h) : StopsAtFailure s h (exec i s) := by
  have hhealed := exec_busActions hstop hservice s.healed
  rw [hexec, busActions_healed] at hhealed
  exact stopsAtFailure_of_busActions (exec_busActions hstop hservice s) hhealed

/-! ## BEACON_SERVICE (R260; log 10) -/

section

variable {s : State}

theorem exec_service_empty (hempty : s.isEmpty .rb1 = true) :
    exec .beaconService s = answer (⟨.empty, 0#16⟩, s) := by
  simp only [exec, execBeaconService, ringGet, hempty, if_true]

/-- As one step the command is its get and then `SetState`. -/
theorem exec_service_oneStep (hbyte : s.isEmpty .rb1 = false) (hone : s.params.serviceReading = .oneStep) :
    exec .beaconService s =
      exec (.radioSetState (s.ringByte .rb1 s.rb1.tail)) (ringPublishTail .rb1 s.rb1.tail s) := by
  rcases execBeaconService_cases s with ⟨hempty, _⟩ | ⟨_, _, e⟩ | ⟨_, hmicro, _⟩
  · rw [hbyte] at hempty
    cases hempty
  · exact e
  · rw [hone] at hmicro
    cases hmicro

theorem exec_service_microSteps (hbyte : s.isEmpty .rb1 = false) (hmicro : s.params.serviceReading = .microSteps) :
    exec .beaconService s = .next ((s.setMainRb (.get .rb1 s.rb1.tail .checked)).setService .getting) := by
  rcases execBeaconService_cases s with ⟨hempty, _⟩ | ⟨_, hone, _⟩ | ⟨_, _, e⟩
  · rw [hbyte] at hempty
    cases hempty
  · rw [hmicro] at hone
    cases hone
  · exact e

/-- A service that fails on the bus is its `SetState` that fails, in the state in which the request is taken. -/
theorem exec_service_stopsAtFailure {h : State} (hexec : exec .beaconService s.healed = .next h) :
    StopsAtFailure { s with rb1 := h.rb1 } h (exec .beaconService s) := by
  cases hempty : s.isEmpty .rb1 with
  | true =>
    have hhealed := exec_service_empty (s := s.healed) hempty
    cases eq_of_exec hexec hhealed
    rw [exec_service_empty hempty]
    exact stopsAtFailure_of_busActions (.of_trace_eq rfl) (.of_trace_eq rfl)
  | false =>
    cases hr : s.params.serviceReading with
    | oneStep =>
      have hhealed := exec_service_oneStep (s := s.healed) hempty hr
      rw [hhealed] at hexec
      have htaken : { s with rb1 := h.rb1 } = ringPublishTail .rb1 s.rb1.tail s := by
        rw [exec_setState_frame hexec]
        rfl
      rw [htaken, exec_service_oneStep hempty hr]
      exact exec_stopsAtFailure (i := .radioSetState _) nofun nofun hexec
    | microSteps =>
      have hhealed := exec_service_microSteps (s := s.healed) hempty hr
      cases eq_of_exec hexec hhealed
      rw [exec_service_microSteps hempty hr]
      exact stopsAtFailure_of_busActions (.of_addsNoSpi (.of_trace_eq rfl)) (.of_addsNoSpi (.of_trace_eq rfl))

end

/-! ## The register commands (R148 to R151) -/

section

variable {s : State} (h : s.FailsAt 0)

include h

theorem busRun_singleRead_fails (a : RegAddr) (n : Nat) : busRun [.read a n] s =
    (none, (s.afterTxn .rd a (List.replicate n 0x00#8) (s.receivedBytes a n)).setSpiFault) :=
  (busRun_first_fails h.1 (FailsAt.zero h) []).2 a n

theorem busRun_singleWrite_fails (a : RegAddr) (data : List Byte) : busRun [.write a data] s =
    (none, (s.afterTxn .wr a data []).setSpiFault) :=
  (busRun_first_fails h.1 (FailsAt.zero h) []).1 a data

end

/-- The answer of a command that stopped at a failure, as a record update. -/
theorem answer_afterFailure (s : State) (before : List TraceEvent) (failed : TraceEvent) (n : Nat) :
    answer (.transportError, s.afterFailure (before ++ [failed]) n) = .next { s with
      spiFault := true
      trace := s.trace ++ before ++ [failed, .result .transportError 0#16]
      env := { s.env with answers := s.env.answers.drop n } } := by
  simp [answer, State.finish, State.emit, State.afterFailure, Reply.transportError]

/-- Settles O25: every command but BEACON_STOP stops at its failed transaction, and each register command makes one
transaction. -/
theorem failedTransactionSetsSpiFault : Obligations.FailedTransactionSetsSpiFault := by
  refine ⟨fun i s h es st r k hstop hfails hexec htrace hk => ?_, fun s a v n hfails => ?_⟩
  · by_cases hservice : i = .beaconService
    · subst hservice
      obtain ⟨before, failed, after, hes, hspi, hbefore, hfailed⟩ :=
        exec_service_stopsAtFailure hexec es st r k hfails htrace hk
      refine ⟨before, failed, after, hes, hspi, hbefore, ?_⟩
      rw [hfailed, answer_afterFailure, if_pos rfl]
    · obtain ⟨before, failed, after, hes, hspi, hbefore, hfailed⟩ :=
        exec_stopsAtFailure hstop hservice hexec es st r k hfails htrace hk
      refine ⟨before, failed, after, hes, hspi, hbefore, ?_⟩
      rw [hfailed, answer_afterFailure, if_neg hservice]
  · refine ⟨?_, ?_, fun h1 h64 => ?_⟩
    · rw [← answer_failedTxn]
      exact (execRegWrite_busActions s a v).fails _ (busRun_singleWrite_fails hfails a [v])
    · rw [← answer_failedTxn]
      exact (execRegRead_busActions s a).fails _ (busRun_singleRead_fails hfails a 1)
    · have hn := burstCountOk_of_bounds h1 h64
      rw [← answer_failedTxn, ← answer_failedTxn]
      have hread := execRegBurstRead_busActions s a n
      have hwrite := execRegBurstWrite_busActions s a n
      simp only [busActions, hn, if_true] at hread hwrite
      exact ⟨hread.fails _ (busRun_singleRead_fails hfails a n.toNat),
        hwrite.fails _ (busRun_singleWrite_fails hfails a (s.xferBytes n.toNat))⟩

end Sys2Proof.Machine
end

section
/-! PROOFS. How a step moves `RadioState`: only `SetState` writes it, with the target of a transition (R33, R180). -/

namespace Sys2Proof.Machine

/-- `RadioState` stays, or it is the target of a transition that ended (R33, R171). -/
def RadioMove (s t : State) : Prop := t.radioState = s.radioState ∨ ∃ g : Target, t.radioState = g.state

theorem RadioMove.trans {s t u : State} (h : RadioMove s t) (k : RadioMove t u) : RadioMove s u := by
  rcases k with stays | moved
  · rw [RadioMove, stays]
    exact h
  · exact .inr moved

theorem enterTarget_radioMove (g : Target) (s : State) : RadioMove s (enterTarget g s).2 :=
  (enterTarget_quiet g s).radio

theorem setState_radioMove (b : Byte) (s : State) : RadioMove s (setState b s).2 := by
  rcases setState_cases b s with ⟨_, e⟩ | ⟨_, _, _, e⟩ | ⟨_, g, _, _, _, e⟩ <;> rw [e]
  · exact .inl rfl
  · exact .inl rfl
  · exact enterTarget_radioMove g s

theorem Started.radioMove {m : Mode} {u v : State} (h : Started m u v) : RadioMove u v :=
  .inl (by rw [h.frame])

theorem startMode_radioMove (m : Mode) (s : State) : RadioMove s (startMode m s).2 := by
  rcases startMode_cases m s with ⟨u, hu, _, e⟩ | ⟨u, hu, _, _, e⟩ <;> rw [e]
  · exact hu.quiet.radio
  · exact RadioMove.trans hu.radio (started m u).radioMove

theorem HandlerStep.radioMove {s t : State} (h : HandlerStep s t) : RadioMove s t := by
  obtain ⟨_, _, _, _, _, _, _, _, q⟩ := h
  exact q.radio

theorem Effect.radioMove {s t : State} (h : Effect s t) : RadioMove s t := by
  cases h with
  | serviced v u hg =>
    rcases ringGet_cases .rb1 s with ⟨_, e⟩ | ⟨_, e⟩ <;> rw [e] at hg <;> cases hg
    exact setState_radioMove _ _
  | bus u r hu => exact hu.quiet.radio
  | burstRead u r bytes hu _ => exact hu.quiet.radio
  | transition g r => exact enterTarget_radioMove g s
  | start m r _ _ => exact startMode_radioMove m s
  | stop r => exact (stopAction_quiet s).radio
  | ends | putInFlight | getInFlight | serviceInFlight | morseStart | morseTick | pnInit | pnTick => exact .inl rfl

theorem mainGetDone_radioState (v : Byte) (s : State) : (mainGetDone v s).radioState = s.radioState := by
  unfold mainGetDone
  split <;> rfl

/-- No micro-step of a ring-buffer command touches the radio (R131). -/
theorem mainMicroStep_radioState {s t : State} (h : mainMicroStep s = some t) : t.radioState = s.radioState := by
  unfold mainMicroStep at h
  split at h <;> cases h
  case h_2 => exact State.setRing_radioState ..
  case h_3 => exact State.setRing_radioState ..
  case h_4 => rfl
  case h_5 => exact (mainGetDone_radioState _ _).trans (State.setRing_radioState ..)

theorem NcbStep.radioMove {s t : State} (h : NcbStep s t) : RadioMove s t := by
  cases h with
  | interrupt x _ => exact (takeInterrupt_step x s).radioMove
  | micro _ _ hm => exact .inl (mainMicroStep_radioState hm)
  | service b _ _ _ => exact setState_radioMove b (s.setService .idle)
  | hostWrite sp _ _ _ _ => cases sp <;> exact .inl rfl
  | command _ _ _ _ _ he _ => exact he.radioMove
  | wait | hostRead | illegal => exact .inl rfl

/-- Block reset apart, a step leaves `RadioState` or moves it to an accepted target (R171, R180). -/
theorem step_resets_or_radioMove {s t : State} (h : step s = .next t) :
    (¬ s.NoReset ∧ t.radioState = .shutdown) ∨ RadioMove s t := by
  cases step_cases h with
  | arrival x => exact .inr (.inl rfl)
  | blockReset hr => exact .inl ⟨not_not_intro hr, rfl⟩
  | turn _ hn => exact .inr hn.radioMove
  | free _ hn => exact .inr hn.radioMove

/-- The four targets are among the values of R180. -/
theorem radioInv_of_target {t : State} {g : Target} (h : t.radioState = g.state) : t.RadioInv := by
  rw [State.RadioInv, h]
  cases g <;> simp [Target.state]

theorem RadioMove.radioInv {s t : State} (h : RadioMove s t) (hs : s.RadioInv) : t.RadioInv := by
  rcases h with stays | ⟨g, moved⟩
  · rwa [State.RadioInv, stays]
  · exact radioInv_of_target moved

/-- Settles O35: block reset gives Shutdown, and every other step leaves `RadioState` or ends a transition. -/
theorem radioStateReachable : Obligations.RadioStateReachable := by
  refine ⟨.inl rfl, fun s t hs h => ?_⟩
  rcases step_resets_or_radioMove h with ⟨hreset, hshutdown⟩ | hmove
  · exact ⟨.inl hshutdown, fun hno => absurd hno hreset⟩
  · exact ⟨hmove.radioInv hs, fun _ hne => hmove.resolve_left hne⟩

end Sys2Proof.Machine
end

section
/-! PROOFS. The radio commands that are one sequence of bus actions, on a bus that answers (R164, R165, R167, R169,
R182). -/

namespace Sys2Proof.Machine

/-! ## Transactions as events logged -/

/-- A bus that answers `n` transactions answers the first `m` of them. -/
theorem BusHealthy.mono {s : State} {m n : Nat} (h : s.BusHealthy n) (hmn : m ≤ n) : s.BusHealthy m :=
  ⟨h.1, fun a ha => h.2 a ((List.take_sublist_take_left hmn).subset ha)⟩

theorem afterTxn_eq_log (s : State) (d : Dir) (a : RegAddr) (sent received : List Byte) :
    s.afterTxn d a sent received = (s.dropAnswers 1).log [.spi d a sent received] := by
  simp only [State.afterTxn, State.dropAnswer, State.dropAnswers, List.drop_one]
  rfl

theorem log_emit (s : State) (es : List TraceEvent) (e : TraceEvent) : (s.log es).emit e = s.log (es ++ [e]) := by
  simp only [State.emit, State.log, List.append_assoc]

/-- Transactions after transactions. -/
theorem log_dropAnswers_log (s : State) (m n : Nat) (es fs : List TraceEvent) :
    (((s.dropAnswers m).log es).dropAnswers n).log fs = (s.dropAnswers (m + n)).log (es ++ fs) := by
  simp only [State.log, State.dropAnswers, State.setEnv, List.drop_drop, List.append_assoc]

theorem busRun_delay (d : DelayName) (ops : List BusOp) (s : State) :
    busRun (.delay d :: ops) s = busRun ops (s.emit (.delay d)) := rfl

/-- Two one-byte reads on a bus that answers, and the bytes they read. -/
theorem busRun_twoReads_log {s : State} (h : s.BusHealthy 2) (a b : RegAddr) :
    ∃ x y : Byte, busRun [.regRead a, .regRead b] s =
        (some [x, y], (s.dropAnswers 2).log [.spi .rd a [0x00#8] [x], .spi .rd b [0x00#8] [y]]) ∧
      ∀ u v l, s.env.answers = ⟨[u], false⟩ :: ⟨[v], false⟩ :: l → x = u ∧ y = v := by
  obtain ⟨x, y, hrun, _, hbytes⟩ := busRun_twoReads (n := 0) h a b
  refine ⟨x, y, ?_, fun u v l => hbytes u v false false l⟩
  rw [hrun, afterTxn_eq_log, afterTxn_eq_log, log_dropAnswers_log]
  rfl

/-- A reply after successful transactions, as a record update. -/
theorem answer_log (r : Reply) (s : State) (n : Nat) (es : List TraceEvent) :
    answer (r, (s.dropAnswers n).log es) = .next { s with
      trace := s.trace ++ es ++ [.result r.status r.value]
      env := { s.env with answers := s.env.answers.drop n } } := rfl

/-! ## Reset and identity (R164, R165, R167) -/

/-- The reset write and the delay come before the two reads (R164). -/
theorem exec_radioReset_of_reads {s u : State} {x y : Byte} (h : s.BusHealthy 1)
    (hreads : busRun [.regRead s.params.radio.regIntStatus1, .regRead s.params.radio.regIntStatus2]
      ((s.dropAnswers 1).log
        [.spi .wr s.params.radio.regOpmode1 [s.params.radio.bitSwres] [], .delay .resetDelay]) = (some [x, y], u)) :
    exec .radioReset s =
      answer (⟨if y &&& s.params.radio.bitPor != 0#8 then .ok else .porTimeout, pair16 x y⟩, u) := by
  simp only [exec, execRadioReset, BusOp.regWrite, busRun_write_healthy h, busRun_delay, afterTxn_eq_log, log_emit,
    List.cons_append, List.nil_append, hreads]

theorem exec_radioCheckId_of_reads {s u : State} {x y : Byte}
    (hreads : busRun [.regRead s.params.radio.regDeviceType, .regRead s.params.radio.regDeviceVersion] s =
      (some [x, y], u)) :
    exec .radioCheckId s = answer (⟨if x == s.params.radio.idDeviceType && y == s.params.radio.idDeviceVersion
      then .ok else .identityMismatch, pair16 x y⟩, u) := by
  simp only [exec, execRadioCheckId, hreads]

/-- Settles O28: the reset write and the delay, then the two reads, whose bytes decide the answer. -/
theorem radioResetSequence : Obligations.RadioResetSequence := by
  intro s h
  have hwritten : ((s.dropAnswers 1).log [.spi .wr s.params.radio.regOpmode1 [s.params.radio.bitSwres] [],
      .delay .resetDelay]).BusHealthy 2 := by
    have hnext := BusHealthy.next (n := 2) h .wr s.params.radio.regOpmode1 [s.params.radio.bitSwres] []
    rwa [afterTxn_eq_log] at hnext
  obtain ⟨x, y, hreads, hbytes⟩ :=
    busRun_twoReads_log hwritten s.params.radio.regIntStatus1 s.params.radio.regIntStatus2
  refine ⟨x, y, ?_, fun a0 a1 a2 l ha => hbytes a1 a2 l (congrArg (List.drop 1) ha)⟩
  rw [log_dropAnswers_log] at hreads
  rw [exec_radioReset_of_reads (BusHealthy.mono h (by decide)) hreads, answer_log]
  simp [pair16]

/-- Settles O29: the two reads, whose bytes decide the answer. -/
theorem radioCheckIdSequence : Obligations.RadioCheckIdSequence := by
  intro s h
  obtain ⟨x, y, hreads, hbytes⟩ :=
    busRun_twoReads_log h s.params.radio.regDeviceType s.params.radio.regDeviceVersion
  refine ⟨x, y, ?_, hbytes⟩
  rw [exec_radioCheckId_of_reads hreads, answer_log]
  simp [pair16]

/-! ## Profiles (R169) -/

theorem Params.profile_eq_none {p : Params} {k : Byte} (h : 3 ≤ k.toNat) : p.profile k = none := by
  rw [Params.profile_eq]
  exact List.getElem?_eq_none h

theorem exec_radioApplyConfig_healthy {s : State} {k : Byte} {l : ConfigList} (hl : s.params.profile k = some l)
    (h : s.BusHealthy l.length) : exec (.radioApplyConfig k) s =
      answer (⟨.ok, count16 l.length⟩, (s.dropAnswers l.length).log (writeEvents l)) := by
  have hrun := busRun_writes (ops := []) (n := 0) h
  rw [List.append_nil] at hrun
  simp only [exec, execRadioApplyConfig, hl, hrun, busRun]

theorem exec_radioApplyConfig_none {s : State} {k : Byte} (hk : s.params.profile k = none) :
    exec (.radioApplyConfig k) s = answer (.illegalOperand, s) := by
  simp only [exec, execRadioApplyConfig, hk]

/-- Settles O30: the writes of the profile on a healthy bus, and no profile of number 3 or above. -/
theorem applyConfigWritesTheProfile : Obligations.ApplyConfigWritesTheProfile := by
  refine fun s k => ⟨fun l hl h => ⟨count16 l.length, toNat_count16, ?_⟩, fun hk => ?_⟩
  · rw [← Params.profile_eq] at hl
    rw [exec_radioApplyConfig_healthy hl h, answer_log]
    rfl
  · exact exec_radioApplyConfig_none (Params.profile_eq_none hk)

/-! ## Packet load (R182) -/

/-- The writes of `RADIO_LOAD_PACKET n` with their data, in order (R182). -/
def loadPacketWrites (p : Params) (n : Byte) (payload : List Byte) : List (RegAddr × List Byte) :=
  [(p.radio.regOpmode2, [p.opmode2Idle ||| p.radio.bitFfclrtx]), (p.radio.regOpmode2, [p.opmode2Idle]),
    (p.radio.regPktLen, [n])]
    ++ (if n = 0#8 then [] else [(p.radio.regFifo, payload)])
    ++ [(p.radio.regIntEnable1, [p.radio.bitPksent]), (p.radio.regIntEnable2, [0x00#8])]

theorem loadPacketOps_eq (p : Params) (n : Byte) (payload : List Byte) :
    loadPacketOps p n payload = (loadPacketWrites p n payload).map (fun e => BusOp.write e.1 e.2) ++
      [.regRead p.radio.regIntStatus1, .regRead p.radio.regIntStatus2] := by
  unfold loadPacketOps loadPacketWrites
  split <;> rfl

/-- Five writes, and the payload's when there is any (R182). -/
theorem length_loadPacketWrites (p : Params) (n : Byte) (payload : List Byte) :
    (loadPacketWrites p n payload).length = if n = 0#8 then 5 else 6 := by
  unfold loadPacketWrites
  split <;> rfl

theorem exec_radioLoadPacket_of_busRun {s u : State} {n : Byte} {bytes : List Byte} (hn : n.toNat ≤ 64)
    (hrun : busRun (loadPacketOps s.params n (s.xferBytes n.toNat)) s = (some bytes, u)) :
    exec (.radioLoadPacket n) s = answer (⟨.ok, zext16 n⟩, u) := by
  have hfits : ¬ Config.fifoCapacity < n.toNat := Nat.not_lt.mpr hn
  simp only [exec, execRadioLoadPacket, hfits, if_false, hrun]

/-- Settles O36: the writes in order, then the two draining reads. -/
theorem loadPacketSequence : Obligations.LoadPacketSequence := by
  intro s n hn h
  have hlength := length_loadPacketWrites s.params n (s.xferBytes n.toNat)
  have henough : s.BusHealthy ((loadPacketWrites s.params n (s.xferBytes n.toNat)).length + 2) :=
    BusHealthy.mono h (by rw [hlength]; split <;> decide)
  obtain ⟨hwrites, hwritten⟩ := busRun_dataWrites henough
    (ops := [.regRead s.params.radio.regIntStatus1, .regRead s.params.radio.regIntStatus2])
  obtain ⟨x, y, hreads, _⟩ :=
    busRun_twoReads_log hwritten s.params.radio.regIntStatus1 s.params.radio.regIntStatus2
  rw [← loadPacketOps_eq, hreads, log_dropAnswers_log, hlength] at hwrites
  refine ⟨x, y, ?_⟩
  rw [exec_radioLoadPacket_of_busRun hn hwrites, answer_log]
  unfold loadPacketWrites
  split <;> simp [zext16, State.xferBytes]

end Sys2Proof.Machine
end

section
/-! PROOFS. `RADIO_SET_STATE` (R171 to R174, R177 to R179): the transition on a bus that answers, on one that fails a
write and on a dead one, and the operand bytes that have none. -/

namespace Sys2Proof.Machine

/-! ## The operand byte (R100, R171, R172) -/

theorem exec_radioSetState (b : Byte) (s : State) : exec (.radioSetState b) s = answer (setState b s) := rfl

/-- A state that has a transition is the state of its target (R171). -/
theorem RadioState.state_of_target {r : RadioState} {g : Target} (h : r.target = some g) : g.state = r := by
  cases r <;> cases h <;> rfl

/-- An operand byte is the code of the state it names (R100). -/
theorem RadioState.code_of_ofByte {b : Byte} {r : RadioState} (h : RadioState.ofByte b = some r) :
    r.code.setWidth 16 = b.setWidth 16 := by
  unfold RadioState.ofByte at h
  split at h <;> cases h <;> rfl

/-- Codes of 11 and above name no state (R100, R172). -/
theorem RadioState.ofByte_eq_none {b : Byte} (h : 11 ≤ b.toNat) : RadioState.ofByte b = none := by
  unfold RadioState.ofByte
  split
  case h_12 => rfl
  all_goals exact absurd h (by decide)

theorem exec_radioSetState_of_target {b : Byte} {r : RadioState} {g : Target} (hb : RadioState.ofByte b = some r)
    (hr : r.target = some g) (s : State) : exec (.radioSetState b) s = answer (enterTarget g s) := by
  simp only [exec_radioSetState, setState, hb, hr]

/-- The seven states without a transition are refused (R178, R179). -/
theorem exec_radioSetState_refused {b : Byte} (hb : b ∈ [0#8, 1#8, 2#8, 3#8, 4#8, 6#8, 9#8]) (s : State) :
    exec (.radioSetState b) s = answer (⟨.notImplemented, 0#16⟩, s) := by
  simp only [List.mem_cons, List.not_mem_nil, or_false] at hb
  rcases hb with rfl | rfl | rfl | rfl | rfl | rfl | rfl <;> rfl

theorem exec_radioSetState_illegal {b : Byte} (hb : RadioState.ofByte b = none) (s : State) :
    exec (.radioSetState b) s = answer (.illegalOperand, s) := by
  simp only [exec_radioSetState, setState, hb]

/-! ## A bus that answers (R171, R172, R174) -/

/-- Settles O31: the writes of the transition on a healthy bus, then its target. -/
theorem setStateMakesTheTransition : Obligations.SetStateMakesTheTransition := by
  intro s b r g hb hr h
  rw [exec_radioSetState_of_target hb hr, enterTarget_healthy (n := 0) h, RadioState.state_of_target hr,
    RadioState.code_of_ofByte hb]
  rfl

theorem writeEvents_append (l m : ConfigList) : writeEvents (l ++ m) = writeEvents l ++ writeEvents m :=
  List.map_append

/-- Register writes are transactions. -/
theorem filter_isSpi_writeEvents (l : ConfigList) : (writeEvents l).filter TraceEvent.isSpi = writeEvents l := by
  rw [List.filter_eq_self]
  intro e he
  obtain ⟨x, _, rfl⟩ := List.mem_map.mp he
  rfl

theorem spiEvents_log_writeEvents (s : State) (l : ConfigList) :
    (s.log (writeEvents l)).spiEvents = s.spiEvents ++ writeEvents l := by
  simp only [State.spiEvents, State.log, List.filter_append, filter_isSpi_writeEvents]

theorem spiEvents_finish (s : State) (r : Reply) : (s.finish r).spiEvents = s.spiEvents :=
  (addsNoSpi_finish s r).spiEvents

/-- The transition to Ready writes no mode list (R171, R174). -/
theorem transitionList_ready (p : Params) (c : RadioState) : transitionList p c .ready =
    (if c.isTxRx then [(p.radio.regOpmode1, p.radio.bitXton)] else []) ++
      [(p.radio.regOpmode2, p.opmode2Idle), (p.radio.regOpmode1, p.radio.bitXton)] := by
  simp only [transitionList, Params.modeList, Params.opmode1Of, List.append_nil]

theorem length_transitionList_ready_le (p : Params) (c : RadioState) : (transitionList p c .ready).length ≤ 3 := by
  rw [transitionList_ready]
  split <;> simp

/-- A transition on a bus that answers puts all its writes on it. -/
theorem enterTarget_healthy_spiEvents {s : State} {g : Target}
    (h : s.BusHealthy (transitionList s.params s.radioState g).length) :
    (enterTarget g s).2.spiEvents = s.spiEvents ++ writeEvents (transitionList s.params s.radioState g) := by
  rw [enterTarget_healthy (n := 0) h]
  exact spiEvents_log_writeEvents s _

/-- Settles O34: the last two writes of every transition to Ready are the same. -/
theorem setStateReadyFromEveryState : Obligations.SetStateReadyFromEveryState := by
  refine ⟨fun s h => ?_, by decide⟩
  have hready := BusHealthy.mono h (length_transitionList_ready_le s.params s.radioState)
  refine ⟨_, exec_radioSetState_of_target (r := .ready) rfl rfl s, ?_, ?_⟩
  · exact congrArg (·.2.radioState) (enterTarget_healthy (n := 0) hready)
  · rw [spiEvents_finish, enterTarget_healthy_spiEvents hready, transitionList_ready, writeEvents_append]
    exact (List.suffix_append _ _).trans (List.suffix_append _ _)

/-! ## A transition that does not complete (R147, R172, R178, R179) -/

theorem getLast?_finish (s : State) (r : Reply) :
    (s.finish r).trace.getLast? = some (.result r.status r.value) := List.getLast?_concat

/-- `TransportError` is the answer of a transition that failed on the bus, and of nothing else (R147). -/
theorem setState_of_transportError {b : Byte} {s : State} (h : (setState b s).1.status = .transportError) :
    (setState b s).2.radioState = s.radioState ∧ (setState b s).2.spiFault = true := by
  rcases setState_cases b s with ⟨_, e⟩ | ⟨_, _, _, e⟩ | ⟨_, g, _, _, _, e⟩ <;> rw [e] at h ⊢
  · cases h
  · cases h
  · obtain ⟨u, hu, ⟨e, hfault⟩ | e⟩ := enterTarget_cases g s <;> rw [e] at h ⊢
    · exact ⟨by rw [hu.frame], hfault⟩
    · cases h

/-- Settles O32: the operand checks, the failed write of a transition, and what a `TransportError` says. -/
theorem failedSetStateKeepsRadioState : Obligations.FailedSetStateKeepsRadioState := by
  refine fun s b => ⟨fun hb => exec_radioSetState_refused hb s,
    fun hb => exec_radioSetState_illegal (RadioState.ofByte_eq_none hb) s, ?_, ?_⟩
  · intro r g k hb hr h hk
    rw [exec_radioSetState_of_target hb hr, enterTarget_failsAt h hk]
    rfl
  · intro t h hlast
    cases h
    rw [getLast?_finish] at hlast
    injection hlast with hresult
    injection hresult with hstatus _
    exact setState_of_transportError hstatus

/-! ## Leaving a transmit or receive state (R173, R177) -/

/-- The register writes between the one that drops the enables and the one that asserts the new ones. -/
def transitionMiddle (p : Params) (g : Target) : ConfigList := p.modeList g ++ [(p.radio.regOpmode2, p.opmode2Idle)]

theorem transitionList_of_isTxRx {c : RadioState} (h : c.isTxRx = true) (p : Params) (g : Target) :
    transitionList p c g = (p.radio.regOpmode1, p.radio.bitXton) :: transitionMiddle p g ++
      [(p.radio.regOpmode1, p.opmode1Of g)] := by
  simp [transitionList, transitionMiddle, h]

/-- No mode list of a legal configuration names operating-mode register 1 (R177). -/
theorem not_mem_modeList {p : Params} (h : p.legal = true) (g : Target) (v : Byte) :
    (p.radio.regOpmode1, v) ∉ p.modeList g := by
  have hnot : ∀ l, namesNoOpmode p.radio l = true → (p.radio.regOpmode1, v) ∉ l := fun l hl hmem => by
    simpa using List.all_eq_true.mp hl _ hmem
  obtain ⟨_, _, _, _, _, hdirect, hpacket, _⟩ := Params.legal_iff.mp h
  cases g with
  | ready | recvPacket => exact List.not_mem_nil
  | xmitDirect => exact hnot _ hdirect
  | xmitPacket => exact hnot _ hpacket

theorem spi_regOpmode1_not_mem_middle {p : Params} (h : p.legal = true)
    (hne : p.radio.regOpmode1 ≠ p.radio.regOpmode2) (g : Target) (d : Dir) (sent received : List Byte) :
    TraceEvent.spi d p.radio.regOpmode1 sent received ∉ writeEvents (transitionMiddle p g) := by
  intro hmem
  obtain ⟨⟨a, v⟩, hin, heq⟩ := List.mem_map.mp hmem
  injection heq with _ ha _ _
  cases ha
  rcases List.mem_append.mp hin with hlist | hlast
  · exact not_mem_modeList h g v hlist
  · exact hne (congrArg Prod.fst (List.mem_singleton.mp hlast))

/-- What a transition puts on the bus: all its writes, or after a failure only the first of them (R147, R171). -/
theorem enterTarget_spiEvents (g : Target) (s : State) :
    ∃ k, (enterTarget g s).2.spiEvents =
        s.spiEvents ++ writeEvents ((transitionList s.params s.radioState g).take k) ∧
      ((enterTarget g s).2.spiFault = false → (transitionList s.params s.radioState g).length ≤ k) := by
  rcases bus_cases s (transitionList s.params s.radioState g).length with h | h | ⟨k, hk, h⟩
  · rw [enterTarget_faulted h]
    exact ⟨0, (List.append_nil _).symm, fun hfine => absurd (h.symm.trans hfine) (by decide)⟩
  · refine ⟨_, ?_, fun _ => le_rfl⟩
    rw [List.take_length, enterTarget_healthy_spiEvents h]
  · rw [enterTarget_failsAt h hk]
    exact ⟨k + 1, spiEvents_log_writeEvents s _, nofun⟩

/-- Settles O33: the writes made are the first of a list in which operating-mode register 1 is written first and
last only. -/
theorem transitionsDoNotOverlap : Obligations.TransitionsDoNotOverlap := by
  intro s t b r g hlegal hne htxrx hb hr h
  rw [exec_radioSetState_of_target hb hr] at h
  cases h
  obtain ⟨k, hevents, hall⟩ := enterTarget_spiEvents g s
  have hlist : writeEvents (transitionList s.params s.radioState g) =
      .spi .wr s.params.radio.regOpmode1 [s.params.radio.bitXton] [] :: writeEvents (transitionMiddle s.params g) ++
        [.spi .wr s.params.radio.regOpmode1 [s.params.opmode1Of g] []] := by
    rw [transitionList_of_isTxRx htxrx, writeEvents_append]
    rfl
  refine ⟨_, writeEvents (transitionMiddle s.params g), (spiEvents_finish _ _).trans hevents,
    spi_regOpmode1_not_mem_middle hlegal hne g, ?_, fun hfine => ?_⟩ <;> rw [← hlist]
  · exact (List.take_prefix _ _).map _
  · rw [List.take_of_length_le (hall hfine)]

end Sys2Proof.Machine
end

section
/-! PROOFS. The NIRQ handler (R181, R295, R301): its two status reads, scripted, and the transition to Ready after
"packet sent". -/

namespace Sys2Proof.Machine

/-- The two status reads of the NIRQ handler (R301). -/
def statusReads (m : RadioMap) : List BusOp := [.regRead m.regIntStatus1, .regRead m.regIntStatus2]

/-- The events of the two status reads, with the bytes read (R301). -/
def statusEvents (m : RadioMap) (x y : Byte) : List TraceEvent :=
  [.spi .rd m.regIntStatus1 [0x00#8] [x], .spi .rd m.regIntStatus2 [0x00#8] [y]]

/-! ## What the reads decide -/

/-- A read that fails, or a dead bus, ends the handler with `isr_radio_error` (R295). -/
theorem handlerNirq_of_no_status {s u : State} (h : busRun (statusReads s.params.radio) s = (none, u)) :
    handlerBody .nirq s = u.raiseFlag flagIsrRadioError := by
  rw [statusReads] at h
  simp only [handlerBody, handlerNirq, h]

section

variable {s u : State} {x y : Byte} (h : busRun (statusReads s.params.radio) s = (some [x, y], u))

include h

theorem handlerNirq_of_not_sent (hx : x &&& s.params.radio.bitPksent = 0#8) : handlerBody .nirq s = u := by
  rw [statusReads] at h
  simp only [handlerBody, handlerNirq, h, hx, bne_self_eq_false, Bool.false_eq_true, if_false]

/-- "Packet sent" runs the transition to Ready, whose failure raises `isr_radio_error` (R181, R301). -/
theorem handlerNirq_of_sent (hx : x &&& s.params.radio.bitPksent ≠ 0#8) {r : Reply} {v : State}
    (henter : enterTarget .ready u = (r, v)) :
    handlerBody .nirq s = if r.status = .ok then v else v.raiseFlag flagIsrRadioError := by
  rw [statusReads] at h
  simp only [handlerBody, handlerNirq, h, bne_iff_ne.mpr hx, if_true, henter]

end

/-! ## The reads of scripted bytes (log 5) -/

theorem failedTxn_eq_afterFailure (s : State) (d : Dir) (a : RegAddr) (sent received : List Byte) :
    (s.afterTxn d a sent received).setSpiFault = s.afterFailure [.spi d a sent received] 1 := by
  rw [afterTxn_eq_log]
  rfl

/-- A failure after transactions that succeeded. -/
theorem log_afterFailure (s : State) (m n : Nat) (es fs : List TraceEvent) :
    ((s.dropAnswers m).log es).afterFailure fs n = s.afterFailure (es ++ fs) (m + n) := by
  simp only [State.log, State.dropAnswers, State.setEnv, State.afterFailure, List.drop_drop, List.append_assoc]

/-- A scripted one-byte read that the transport fails (R147). -/
theorem busRun_regRead_fails {s : State} (hbus : s.spiFault = false) {x : Byte} {l : List Answer}
    (ha : s.env.answers = ⟨[x], true⟩ :: l) (a : RegAddr) (ops : List BusOp) :
    busRun (.regRead a :: ops) s = (none, s.afterFailure [.spi .rd a [0x00#8] [x]] 1) := by
  have hfails : s.nextAnswer.fails = true := by rw [State.nextAnswer, ha]
  rw [BusOp.regRead, (busRun_first_fails hbus hfails ops).2, receivedBytes_scripted ha, failedTxn_eq_afterFailure]
  rfl

section

variable {s : State} (hbus : s.spiFault = false) {x y : Byte} {l : List Answer}

include hbus

theorem statusReads_first_fails (ha : s.env.answers = ⟨[x], true⟩ :: l) :
    busRun (statusReads s.params.radio) s =
      (none, s.afterFailure [.spi .rd s.params.radio.regIntStatus1 [0x00#8] [x]] 1) :=
  busRun_regRead_fails hbus ha _ _

theorem statusReads_second_fails (ha : s.env.answers = ⟨[x], false⟩ :: ⟨[y], true⟩ :: l) :
    busRun (statusReads s.params.radio) s = (none, s.afterFailure (statusEvents s.params.radio x y) 2) := by
  have hfirst : s.BusHealthy 1 := ⟨hbus, by simp [ha]⟩
  have hrest : (s.afterTxn .rd s.params.radio.regIntStatus1 [0x00#8] [x]).env.answers = ⟨[y], true⟩ :: l :=
    congrArg List.tail ha
  have hsecond := busRun_regRead_fails (s := s.afterTxn .rd s.params.radio.regIntStatus1 [0x00#8] [x]) hbus hrest
    s.params.radio.regIntStatus2 []
  rw [statusReads, BusOp.regRead, busRun_read_healthy hfirst, receivedBytes_scripted ha, List.replicate_one,
    hsecond, afterTxn_eq_log, log_afterFailure]
  rfl

theorem statusReads_succeed (ha : s.env.answers = ⟨[x], false⟩ :: ⟨[y], false⟩ :: l) :
    busRun (statusReads s.params.radio) s =
      (some [x, y], (s.dropAnswers 2).log (statusEvents s.params.radio x y)) := by
  have hhealthy : s.BusHealthy 2 := ⟨hbus, by simp [ha]⟩
  obtain ⟨_, _, hrun, hbytes⟩ :=
    busRun_twoReads_log hhealthy s.params.radio.regIntStatus1 s.params.radio.regIntStatus2
  obtain ⟨rfl, rfl⟩ := hbytes x y l ha
  exact hrun

end

/-- The answers left in store after the two status reads. -/
theorem answers_of_dropAnswers_two {s : State} {a b : Answer} {l : List Answer} (ha : s.env.answers = a :: b :: l)
    (es : List TraceEvent) : ((s.dropAnswers 2).log es).env.answers = l := congrArg (List.drop 2) ha

/-- The answers left in store after the two status reads and `n` transactions more. -/
theorem drop_two_add {s : State} {a b : Answer} {l : List Answer} (ha : s.env.answers = a :: b :: l) (n : Nat) :
    s.env.answers.drop (2 + n) = l.drop n := by
  rw [ha, Nat.add_comm]
  rfl

/-- Settles O55: the status reads decide what the handler does, and the bus how its transition ends. -/
theorem packetSentReturnsToReady : Obligations.PacketSentReturnsToReady := by
  refine fun s => ⟨fun hdead => ?_, fun a0 a1 f0 f1 l hbus ha => ⟨?_, ?_, ?_, ?_, ?_⟩⟩
  · exact handlerNirq_of_no_status ((busRun_faulted hdead _).2 _ _)
  · rintro rfl
    rw [handlerNirq_of_no_status (statusReads_first_fails hbus ha), State.afterFailure, ha]
    rfl
  · rintro rfl rfl
    rw [handlerNirq_of_no_status (statusReads_second_fails hbus ha), State.afterFailure, ha]
    rfl
  · rintro rfl rfl hclear
    rw [handlerNirq_of_not_sent (statusReads_succeed hbus ha) hclear, State.dropAnswers, ha]
    rfl
  · rintro rfl rfl hsent hfine
    have hread := statusReads_succeed hbus ha
    have hhealthy : ((s.dropAnswers 2).log (statusEvents s.params.radio a0 a1)).BusHealthy
        (transitionList s.params s.radioState .ready).length :=
      ⟨hbus, by rwa [answers_of_dropAnswers_two ha]⟩
    rw [handlerNirq_of_sent hread hsent (enterTarget_healthy (n := 0) hhealthy), if_pos rfl, log_dropAnswers_log,
      ← drop_two_add ha, List.append_assoc]
    rfl
  · rintro k a rfl rfl hsent hfine hk hfails hlength
    have hread := statusReads_succeed hbus ha
    have hfailsAt : ((s.dropAnswers 2).log (statusEvents s.params.radio a0 a1)).FailsAt k :=
      ⟨hbus, by rwa [answers_of_dropAnswers_two ha], a, by rwa [answers_of_dropAnswers_two ha], hfails⟩
    rw [handlerNirq_of_sent hread hsent (enterTarget_failsAt hfailsAt hlength), if_neg (by decide), log_afterFailure,
      ← drop_two_add ha, List.append_assoc]
    rfl

end Sys2Proof.Machine
end

section
/-! PROOFS. `MORSE_START` and `MORSE_TICK` (R203, R205 to R213): what one call answers, and what it leaves of the
generator, in each phase. -/

namespace Sys2Proof.Machine

/-! ## MORSE_START (R203) -/

theorem exec_morseStart_fits {s : State} {len : Half} (h : len.toNat ≤ s.params.msgSize) :
    exec (.morseStart len) s = answer (⟨.ok, 0#16⟩, s.setMorse ⟨0x00#8, 0x00#8, 0#16, len, true⟩) :=
  congrArg answer (if_neg (Nat.not_lt.mpr h))

theorem exec_morseStart_tooLong {s : State} {len : Half} (h : s.params.msgSize < len.toNat) :
    exec (.morseStart len) s = answer (.illegalOperand, s) :=
  congrArg answer (if_pos h)

/-- Settles O37: the length check decides between the two answers. -/
theorem morseStartArmsTheGenerator : Obligations.MorseStartArmsTheGenerator :=
  fun _ _ => ⟨exec_morseStart_fits, exec_morseStart_tooLong⟩

/-! ## MORSE_TICK from its step (R205) -/

section

variable {s : State} {m : Morse}

/-- `MORSE_TICK` writes the generator that one `MorseStep` leaves, and answers what the step gives. -/
theorem exec_morseTick {o : MorseOutcome}
    (h : morseStep s.params (s.readByte .msg s.morse.messageCursor.toNat) s.morse = (o, m)) :
    exec .morseTick s =
      .next { s with morse := m, trace := s.trace ++ [.result o.reply.status o.reply.value] } := by
  simp only [exec, execMorseTick, State.morseStep, h]
  rfl

theorem unitOutcome_reply (on : Bool) : (unitOutcome on).reply = ⟨.ok, if on then 1#16 else 0#16⟩ := by
  cases on <;> rfl

/-- A step that keys one unit is answered with that unit (R101). -/
theorem exec_morseTick_unit {on : Bool}
    (h : morseStep s.params (s.readByte .msg s.morse.messageCursor.toNat) s.morse = (unitOutcome on, m)) :
    exec .morseTick s =
      .next { s with morse := m, trace := s.trace ++ [.result .ok (if on then 1#16 else 0#16)] } := by
  rw [exec_morseTick h, unitOutcome_reply]

end

/-! ## Taking a symbol (R208) -/

/-- Every symbol begins with an On unit. -/
theorem symbolPattern_bit7 (dash last : Bool) : (symbolPattern dash last).getLsbD 7 = true := by
  cases dash <;> cases last <;> decide

/-- What is left of a key pattern after its first unit. -/
theorem shlSticky_symbolPattern (dash last : Bool) :
    shlSticky (symbolPattern dash last) =
      if dash then (if last then 0xC7#8 else 0xDF#8) else (if last then 0x1F#8 else 0x7F#8) := by
  cases dash <;> cases last <;> decide

/-- With the key pattern used up, the next symbol is taken and its first unit keyed, whatever `symbol_shift` holds. -/
theorem morseUnit_nextSymbol {m : Morse} (hk : exhausted m.keyShift = true) :
    morseUnit m = (unitOutcome true, { m with
      symbolShift := shlSticky m.symbolShift
      keyShift :=
        if m.symbolShift.getLsbD 7 then (if exhausted (shlSticky m.symbolShift) then 0xC7#8 else 0xDF#8)
        else (if exhausted (shlSticky m.symbolShift) then 0x1F#8 else 0x7F#8) }) := by
  rw [← shlSticky_symbolPattern, morseUnit, if_pos hk, morseNextSymbol_eq, morseKeyOut, symbolPattern_bit7]
  rfl

/-- With symbols left in the letter, a call is phases E and F alone. -/
theorem morseStep_of_symbols (p : Params) (c : Byte) {m : Morse} (ha : m.active = true)
    (hs : exhausted m.symbolShift = false) : morseStep p c m = morseUnit m := by
  simp [morseStep, ha, hs]

/-- Settles O38: phase F alone while the key pattern lasts, and phase E before it once that is used up. -/
theorem morseTickKeysOneUnit : Obligations.MorseTickKeysOneUnit := by
  refine fun s ha => ⟨fun hk => ?_, fun hk hs => ?_⟩
  · exact exec_morseTick_unit (morseStep_keyOut _ _ ha hk)
  · exact exec_morseTick_unit ((morseStep_of_symbols _ _ ha hs).trans (morseUnit_nextSymbol hk))

/-! ## Fetching a character (R209, R211, R212) -/

/-- A word space just loaded keys the first of its four Off units (R211). -/
theorem morseUnit_wordSpace {m : Morse} (hk : m.keyShift = keyWordspace) :
    morseUnit m = (unitOutcome false, { m with keyShift := 0x1F#8 }) := by
  have hlive : ¬ exhausted keyWordspace = true := by decide
  have hbit : keyWordspace.getLsbD 7 = false := by decide
  have hrest : shlSticky keyWordspace = 0x1F#8 := by decide
  rw [morseUnit, hk, if_neg hlive, morseKeyOut, hk, hbit, hrest]
  rfl

section

variable {p : Params} {c : Byte} {m : Morse} (ha : m.active = true) (hk : exhausted m.keyShift = true)
  (hs : exhausted m.symbolShift = true) (hend : m.messageCursor ≠ m.msgLen)

include ha hk hs hend

/-- With both registers used up before the end of the message, what was fetched is keyed in the same call. -/
theorem morseStep_fetched {m₁ m₂ : Morse} (h : morseFetch p c m = (some m₁, m₂)) : morseStep p c m = morseUnit m₁ := by
  simp [morseStep, ha, hk, hs, hend, h]

/-- A fetched letter is keyed from its first unit on in the same call, also one whose code is an exhausted value. -/
theorem morseStep_letter {v : Byte} (hc : morseLookup p.morseTable c = .code v) :
    morseStep p c m = (unitOutcome true, { m with
      messageCursor := m.messageCursor + 1#16
      symbolShift := shlSticky v
      keyShift :=
        if v.getLsbD 7 then (if exhausted (shlSticky v) then 0xC7#8 else 0xDF#8)
        else (if exhausted (shlSticky v) then 0x1F#8 else 0x7F#8) }) := by
  have hfetch : morseFetch p c m =
      (some { m with messageCursor := m.messageCursor + 1#16, symbolShift := v },
        { m with messageCursor := m.messageCursor + 1#16 }) := by simp only [morseFetch, hc]
  exact (morseStep_fetched ha hk hs hend hfetch).trans (morseUnit_nextSymbol hk)

/-- A word space, or an unmapped character taken for one, keys the first of its four Off units (R211, R212). -/
theorem morseStep_wordSpace (hc : morseLookup p.morseTable c = .wordSpace ∨
      (morseLookup p.morseTable c = .unmapped ∧ p.morseUnmapped = .wordSpace)) :
    morseStep p c m = (unitOutcome false, { m with
      messageCursor := m.messageCursor + 1#16, keyShift := 0x1F#8 }) := by
  have hfetch : morseFetch p c m =
      (some { m with messageCursor := m.messageCursor + 1#16, keyShift := keyWordspace },
        { m with messageCursor := m.messageCursor + 1#16 }) := by
    obtain hc | ⟨hc, hpolicy⟩ := hc
    · simp only [morseFetch, hc]
    · simp only [morseFetch, hc, hpolicy]
  exact (morseStep_fetched ha hk hs hend hfetch).trans (morseUnit_wordSpace rfl)

/-- An unmapped character under the `Error` policy is passed over, and nothing keyed (R212). -/
theorem morseStep_invalid (hc : morseLookup p.morseTable c = .unmapped) (hpolicy : p.morseUnmapped = .error) :
    morseStep p c m = (.invalid c, { m with messageCursor := m.messageCursor + 1#16 }) := by
  simp [morseStep, morseFetch, ha, hk, hs, hend, hc, hpolicy]

end

/-- Settles O39: what the table says of the character decides the call. -/
theorem morseTickFetchesTheNextCharacter : Obligations.MorseTickFetchesTheNextCharacter := by
  rintro s _ ha hk hs hend rfl
  refine ⟨fun v hc => ?_, fun hc => ?_, fun ⟨hc, hpolicy⟩ => ?_⟩
  · exact exec_morseTick_unit (morseStep_letter ha hk hs hend hc)
  · exact exec_morseTick_unit (morseStep_wordSpace ha hk hs hend hc)
  · exact exec_morseTick (morseStep_invalid ha hk hs hend hc hpolicy)

/-! ## The end of the message, and an idle generator (R206, R213) -/

theorem morseStep_idle (p : Params) (c : Byte) {m : Morse} (ha : m.active = false) :
    morseStep p c m = (unitOutcome false, m) := by
  simp [morseStep, unitOutcome, ha]

theorem morseStep_done (p : Params) (c : Byte) {m : Morse} (ha : m.active = true)
    (hk : exhausted m.keyShift = true) (hs : exhausted m.symbolShift = true) (hend : m.messageCursor = m.msgLen) :
    morseStep p c m = (.key .done, { m with active := false }) := by
  simp [morseStep, ha, hk, hs, hend]

/-- Settles O40: Done leaves the generator idle, and an idle step writes nothing. -/
theorem morseDoneOnceThenIdle : Obligations.MorseDoneOnceThenIdle := by
  refine fun s => ⟨fun ha hk hs hend => ?_, fun ha => ?_, fun _ _ _ => rfl⟩
  · exact exec_morseTick (morseStep_done _ _ ha hk hs hend)
  · exact exec_morseTick_unit (morseStep_idle _ _ ha)

end Sys2Proof.Machine
end

section
/-! PROOFS. The PN generator (R231 to R243): its commands, `PnNext` as a permutation at every width, and the period
law of the default polynomials. -/

namespace Sys2Proof.Machine

/-! ## PN_INIT and PN_TICK (R235, R237, R240) -/

theorem exec_pnInit_legal {s : State} {seed : Half} (h0 : seed ≠ 0#16) (hn : seed.toNat < 2 ^ s.params.pnN) :
    exec (.pnInit seed) s = answer (⟨.ok, 0#16⟩, s.setPn ⟨seed.toNat, seed.toNat, 0#16, false⟩) := by
  have hwidth : truncW s.params.pnN seed.toNat = seed.toNat := Nat.mod_eq_of_lt hn
  have hlegal : ¬(seed = 0#16 ∨ 2 ^ s.params.pnN ≤ seed.toNat) := not_or.mpr ⟨h0, Nat.not_le.mpr hn⟩
  simp only [exec, execPnInit, if_neg hlegal, hwidth]

theorem exec_pnInit_illegal {s : State} {seed : Half} (h : seed = 0#16 ∨ 2 ^ s.params.pnN ≤ seed.toNat) :
    exec (.pnInit seed) s = answer (.illegalOperand, s) :=
  congrArg answer (if_pos h)

/-- `PN_TICK` writes the generator that one `PnStep` leaves, and answers its chip and its complete bit. -/
theorem exec_pnTick {s : State} {chip : Bool} {g : Pn} (h : pnStep s.params s.pn = (chip, g)) :
    exec .pnTick s =
      .next { s with pn := g, trace := s.trace ++ [.result .ok (pnTickValue chip g.complete)] } := by
  simp only [exec, execPnTick, State.pnStep, h]
  rfl

section

variable {p : Params} {g : Pn}

theorem pnStep_stopped (hc : g.complete = true) : pnStep p g = (false, g) := by
  simpa [hc] using pnStep_cases p g

theorem pnStep_shifts (hc : g.complete = false) (hr : pnNext p.pnN p.pnGpoly g.reg ≠ g.seed) :
    pnStep p g = (g.reg.testBit (p.pnN - 1), { g with reg := pnNext p.pnN p.pnGpoly g.reg }) := by
  simpa [hc, hr] using pnStep_cases p g

theorem pnStep_returns (hc : g.complete = false) (hr : pnNext p.pnN p.pnGpoly g.reg = g.seed) :
    pnStep p g = (g.reg.testBit (p.pnN - 1),
      ⟨g.seed, g.seed, g.periodCounter + 1#16, decide (g.periodCounter + 1#16 = p.pnPeriodTarget)⟩) := by
  simpa [hc, hr, beq_eq_decide] using pnStep_cases p g

end

/-- Without the complete bit the answer is the chip alone. -/
theorem pnTickValue_running (chip : Bool) : pnTickValue chip false = if chip then 0x0001#16 else 0x0000#16 := by
  cases chip <;> rfl

/-- Settles O43: the operand check decides `PN_INIT`, and the three cases of a `PnStep` decide `PN_TICK`. -/
theorem pnInitAndTick : Obligations.PnInitAndTick := by
  refine fun s => ⟨fun _ => exec_pnInit_legal, fun _ => exec_pnInit_illegal, fun hc => ⟨fun hr => ?_, fun hr => ?_⟩,
    fun hc => ?_⟩
  · rw [exec_pnTick (pnStep_shifts hc hr), hc, pnTickValue_running, ← hc]
  · rw [exec_pnTick (pnStep_returns hc hr), pnTickValue]
    simp only [decide_eq_true_eq]
  · rw [exec_pnTick (pnStep_stopped hc), hc]
    rfl

/-! ## One step, bit by bit (R231, R233) -/

/-- The toggle mask `T` of R233. -/
def pnToggle (n gpoly : Nat) : Nat := ((gpoly >>> 1) &&& (2 ^ (n - 1) - 1)) ||| 2 ^ (n - 1)

theorem testBit_pnToggle (n gpoly i : Nat) :
    (pnToggle n gpoly).testBit i = (gpoly.testBit (1 + i) && decide (i < n - 1) || decide (n - 1 = i)) := by
  simp [pnToggle, Nat.testBit_two_pow, Bool.and_comm]

section

variable {n gpoly r q : Nat}

theorem pnNext_of_even (h : r.testBit 0 = false) : pnNext n gpoly r = r >>> 1 := by
  rw [pnNext, h, if_neg Bool.false_ne_true]

theorem testBit_eq_false_of_le {i : Nat} (hr : r < 2 ^ n) (hi : n ≤ i) : r.testBit i = false :=
  Nat.testBit_lt_two_pow (Nat.lt_of_lt_of_le hr (Nat.pow_le_pow_right (by decide) hi))

/-- Truncation drops the bits of the polynomial above the top bit, and the explicit `2^(n-1)` covers that one. -/
theorem pnNext_of_odd (hn : 1 ≤ n) (hr : r < 2 ^ n) (h : r.testBit 0 = true) :
    pnNext n gpoly r = (r >>> 1) ^^^ pnToggle n gpoly := by
  rw [pnNext, h, if_pos rfl, truncW]
  refine Nat.eq_of_testBit_eq fun i => ?_
  simp only [Nat.testBit_mod_two_pow, Nat.testBit_or, Nat.testBit_xor, Nat.testBit_shiftRight, Nat.testBit_two_pow,
    testBit_pnToggle]
  obtain hi | rfl | hi := Nat.lt_trichotomy i (n - 1)
  · have h1 : i < n := by omega
    have h2 : n - 1 ≠ i := by omega
    simp [hi, h1, h2]
  · have htop := testBit_eq_false_of_le hr (i := 1 + (n - 1)) (by omega)
    have h1 : n - 1 < n := by omega
    simp [h1, htop]
  · have habove := testBit_eq_false_of_le hr (i := 1 + i) (by omega)
    have h1 : ¬ i < n := by omega
    have h2 : ¬ i < n - 1 := by omega
    have h3 : n - 1 ≠ i := by omega
    simp [h1, h2, h3, habove]

theorem testBit_top_pnNext (hn : 1 ≤ n) (hr : r < 2 ^ n) :
    (pnNext n gpoly r).testBit (n - 1) = r.testBit 0 := by
  have htop := testBit_eq_false_of_le hr (i := 1 + (n - 1)) (by omega)
  cases h : r.testBit 0
  · rw [pnNext_of_even h, Nat.testBit_shiftRight, htop]
  · rw [pnNext_of_odd hn hr h, Nat.testBit_xor, Nat.testBit_shiftRight, htop, testBit_pnToggle]
    simp

/-- The top bit tells the branch, and the branch is undone. -/
theorem pnNext_inj (hn : 1 ≤ n) (hr : r < 2 ^ n) (hq : q < 2 ^ n) (h : pnNext n gpoly r = pnNext n gpoly q) :
    r = q := by
  have hbit : r.testBit 0 = q.testBit 0 := by
    rw [← testBit_top_pnNext hn hr (gpoly := gpoly), h, testBit_top_pnNext hn hq]
  have hshift : r >>> 1 = q >>> 1 := by
    cases hr0 : r.testBit 0 with
    | false => rwa [pnNext_of_even hr0, pnNext_of_even (hbit ▸ hr0)] at h
    | true => rwa [pnNext_of_odd hn hr hr0, pnNext_of_odd hn hq (hbit ▸ hr0), Nat.xor_left_inj] at h
  simp only [Nat.testBit_zero, Nat.shiftRight_eq_div_pow, decide_eq_decide] at hbit hshift
  omega

theorem pnToggle_congr {h : Nat} (hg : ∀ k, 1 ≤ k → k < n → h.testBit k = gpoly.testBit k) :
    pnToggle n h = pnToggle n gpoly := by
  refine Nat.eq_of_testBit_eq fun i => ?_
  rw [testBit_pnToggle, testBit_pnToggle]
  by_cases hi : i < n - 1
  · rw [hg (1 + i) (by omega) (by omega)]
  · simp only [hi, decide_false, Bool.and_false]

/-- Only bits n-1 down to 1 of the polynomial matter (R233). -/
theorem pnNext_congr {h : Nat} (hn : 1 ≤ n) (hr : r < 2 ^ n)
    (hg : ∀ k, 1 ≤ k → k < n → h.testBit k = gpoly.testBit k) : pnNext n h r = pnNext n gpoly r := by
  cases hr0 : r.testBit 0 with
  | false => rw [pnNext_of_even hr0, pnNext_of_even hr0]
  | true => rw [pnNext_of_odd hn hr hr0, pnNext_of_odd hn hr hr0, pnToggle_congr hg]

/-- An injection of the finitely many n-bit values reaches them all (R234). -/
theorem pnNext_surj (hn : 1 ≤ n) (hr : r < 2 ^ n) : ∃ q, q < 2 ^ n ∧ pnNext n gpoly q = r := by
  have hmaps : Set.MapsTo (pnNext n gpoly) (Finset.range (2 ^ n)) (Finset.range (2 ^ n)) := fun _ hq =>
    Finset.mem_coe.mpr (Finset.mem_range.mpr (pnNext_lt (Finset.mem_range.mp hq)))
  have hinj : Set.InjOn (pnNext n gpoly) (Finset.range (2 ^ n)) := fun _ ha _ hb =>
    pnNext_inj hn (Finset.mem_range.mp ha) (Finset.mem_range.mp hb)
  obtain ⟨q, hq, h⟩ := Finset.surjOn_of_injOn_of_card_le _ hmaps hinj le_rfl (Finset.mem_range.mpr hr)
  exact ⟨q, Finset.mem_range.mp hq, h⟩

end

/-! ## Cycles of nonzero states (R234, R238) -/

theorem pnIterate_eq_iterate (n gpoly k r : Nat) : pnIterate n gpoly k r = (pnNext n gpoly)^[k] r := by
  induction k generalizing r with
  | zero => rfl
  | succ k ih => exact ih _

/-- A function keeps its periods when it is restricted to a set it maps into itself. -/
theorem minimalPeriod_restrict {α : Type} {f : α → α} {s : Set α} (h : Set.MapsTo f s s) (x : s) :
    Function.minimalPeriod h.restrict x = Function.minimalPeriod f x :=
  Function.minimalPeriod_eq_minimalPeriod_iff.mpr fun k => by
    rw [Function.IsPeriodicPt, Function.IsFixedPt, Subtype.ext_iff, h.coe_iterate_restrict]
    rfl

/-- An injection of a finite set into itself is periodic there, with periods no longer than the set. -/
theorem minimalPeriod_bounds_of_injOn {α : Type} {f : α → α} {s : Finset α} {x : α} (hmaps : Set.MapsTo f s s)
    (hinj : Set.InjOn f s) (hx : x ∈ s) :
    1 ≤ Function.minimalPeriod f x ∧ Function.minimalPeriod f x ≤ s.card := by
  rw [← minimalPeriod_restrict hmaps ⟨x, hx⟩, ← Fintype.card_coe]
  exact ⟨Function.minimalPeriod_pos_of_mem_periodicPts ((hmaps.restrict_inj.mpr hinj).mem_periodicPts _),
    Function.minimalPeriod_le_card⟩

/-- The nonzero n-bit values, the states of a running generator (R238). -/
def pnStates (n : Nat) : Finset Nat := Finset.Ico 1 (2 ^ n)

section

variable {n gpoly r : Nat}

theorem mem_pnStates : r ∈ pnStates n ↔ 0 < r ∧ r < 2 ^ n := Finset.mem_Ico

theorem card_pnStates : (pnStates n).card = 2 ^ n - 1 := Nat.card_Ico 1 (2 ^ n)

theorem pnNext_mem_pnStates (hn : 1 ≤ n) (hr : r ∈ pnStates n) : pnNext n gpoly r ∈ pnStates n := by
  obtain ⟨h0, h⟩ := mem_pnStates.mp hr
  exact mem_pnStates.mpr ⟨Nat.pos_of_ne_zero (pnNext_ne_zero hn h0.ne'), pnNext_lt h⟩

/-- Every state comes back, after at most as many steps as there are states (R234). -/
theorem minimalPeriod_pnNext_bounds (hn : 1 ≤ n) (hr : r ∈ pnStates n) :
    1 ≤ Function.minimalPeriod (pnNext n gpoly) r ∧ Function.minimalPeriod (pnNext n gpoly) r ≤ 2 ^ n - 1 :=
  card_pnStates (n := n) ▸ minimalPeriod_bounds_of_injOn (fun _ => pnNext_mem_pnStates hn)
    (fun _ ha _ hb => pnNext_inj hn (mem_pnStates.mp ha).2 (mem_pnStates.mp hb).2) hr

end

/-- Settles O44: a step is a shift and a toggle, an injection, and so a permutation with cycles of nonzero states. -/
theorem pnNextIsAPermutation : Obligations.PnNextIsAPermutation := by
  refine fun n g hn => ⟨rfl, fun r _ h => ?_, fun r hr h => ?_, fun r hr => ⟨pnNext_lt hr, testBit_top_pnNext hn hr⟩,
    fun _ _ => pnNext_inj hn, fun _ => pnNext_surj hn, fun _ _ => pnNext_ne_zero hn, fun r hr => ?_,
    fun _ _ => pnNext_congr hn⟩
  · exact pnNext_of_even (by simp [Nat.testBit_zero, h])
  · exact pnNext_of_odd hn hr (by simp [Nat.testBit_zero, h])
  · obtain rfl | hr0 := Nat.eq_zero_or_pos r
    · exact ⟨1, le_rfl, Nat.le_sub_one_of_lt (Nat.one_lt_two_pow (by omega)), rfl⟩
    · obtain ⟨hpos, hle⟩ := minimalPeriod_pnNext_bounds (gpoly := g) hn (mem_pnStates.mpr ⟨hr0, hr⟩)
      exact ⟨_, hpos, hle, by rw [pnIterate_eq_iterate, Function.iterate_minimalPeriod]⟩

/-! ## Long runs by squaring -/

section

variable {n gpoly r q : Nat}

theorem pnNext_eq_xor (hn : 1 ≤ n) (hr : r < 2 ^ n) :
    pnNext n gpoly r = (r >>> 1) ^^^ (if r.testBit 0 then pnToggle n gpoly else 0) := by
  cases h : r.testBit 0 with
  | false => simp [pnNext_of_even h]
  | true => simp [pnNext_of_odd hn hr h]

/-- A step is linear over GF(2). -/
theorem pnNext_xor (hn : 1 ≤ n) (hr : r < 2 ^ n) (hq : q < 2 ^ n) :
    pnNext n gpoly (r ^^^ q) = pnNext n gpoly r ^^^ pnNext n gpoly q := by
  rw [pnNext_eq_xor hn (Nat.xor_lt_two_pow hr hq), pnNext_eq_xor hn hr, pnNext_eq_xor hn hq,
    Nat.shiftRight_xor_distrib, Nat.testBit_xor]
  cases r.testBit 0 <;> cases q.testBit 0 <;> simp [Nat.xor_assoc, Nat.xor_comm, Nat.xor_left_comm]

theorem iterate_pnNext_xor (hn : 1 ≤ n) (k : Nat) (hr : r < 2 ^ n) (hq : q < 2 ^ n) :
    (pnNext n gpoly)^[k] (r ^^^ q) = (pnNext n gpoly)^[k] r ^^^ (pnNext n gpoly)^[k] q := by
  induction k generalizing r q with
  | zero => rfl
  | succ k ih =>
    simp only [Function.iterate_succ_apply]
    rw [pnNext_xor hn hr hq, ih (pnNext_lt hr) (pnNext_lt hq)]

theorem iterate_pnNext_zero (k : Nat) : (pnNext n gpoly)^[k] 0 = 0 := Function.iterate_fixed rfl k

theorem pnNext_two_pow (n gpoly i : Nat) : pnNext n gpoly (2 ^ (i + 1)) = 2 ^ i := by
  rw [pnNext_of_even (by simp), Nat.shiftRight_eq_div_pow, pow_one, pow_succ, Nat.mul_div_cancel _ (by decide)]

/-- The bits of `u` up to bit `i`, the top one apart. -/
theorem mod_two_pow_succ_eq_xor (u i : Nat) :
    u % 2 ^ (i + 1) = (if u.testBit i then 2 ^ i else 0) ^^^ u % 2 ^ i := by
  refine Nat.eq_of_testBit_eq fun j => ?_
  have htop : (if u.testBit i then 2 ^ i else 0).testBit j = (u.testBit i && decide (i = j)) := by
    cases u.testBit i <;> simp [Nat.testBit_two_pow]
  rw [Nat.testBit_xor, htop, Nat.testBit_mod_two_pow, Nat.testBit_mod_two_pow]
  obtain hj | rfl | hj := Nat.lt_trichotomy j i
  · simp [hj, hj.ne', Nat.lt_succ_of_lt hj]
  · simp
  · simp [hj.ne, hj.le.not_gt, show ¬ j < i + 1 by omega]

/-- The sum, over the bits `j ≤ i` of `u`, of what `i - j` steps leave of `w`. As `i - j` steps take `2^i` to `2^j`,
this is what `k` steps leave of these bits of `u`, where `w` is what they leave of `2^i`. Of `w = 0` nothing is left;
with that case apart, an evaluation has the value of `w` before it goes on. -/
def pnCombine (n gpoly u : Nat) : Nat → Nat → Nat
  | 0, w => if u.testBit 0 then w else 0
  | _ + 1, 0 => 0
  | i + 1, w + 1 => (if u.testBit (i + 1) then w + 1 else 0) ^^^ pnCombine n gpoly u i (pnNext n gpoly (w + 1))

theorem pnCombine_succ (u i w : Nat) :
    pnCombine n gpoly u (i + 1) w =
      (if u.testBit (i + 1) then w else 0) ^^^ pnCombine n gpoly u i (pnNext n gpoly w) := by
  cases w with
  | zero =>
    have hzero : pnCombine n gpoly u i 0 = 0 := by cases i <;> simp [pnCombine]
    rw [show pnNext n gpoly 0 = 0 from rfl, hzero, ite_self]
    rfl
  | succ w => rfl

theorem pnCombine_iterate (hn : 1 ≤ n) (u k : Nat) {i : Nat} (hi : i < n) :
    pnCombine n gpoly u i ((pnNext n gpoly)^[k] (2 ^ i)) = (pnNext n gpoly)^[k] (u % 2 ^ (i + 1)) := by
  have hite (b : Bool) (x : Nat) :
      (if b then (pnNext n gpoly)^[k] x else 0) = (pnNext n gpoly)^[k] (if b then x else 0) := by
    cases b
    · exact (iterate_pnNext_zero k).symm
    · rfl
  induction i with
  | zero => rw [mod_two_pow_succ_eq_xor, pow_zero, Nat.mod_one, Nat.xor_zero, ← hite, pnCombine]
  | succ i ih =>
    have hlow : u % 2 ^ (i + 1) < 2 ^ n :=
      Nat.lt_of_lt_of_le (Nat.mod_lt _ (Nat.two_pow_pos _)) (Nat.pow_le_pow_right (by decide) hi.le)
    have hbit : (if u.testBit (i + 1) then 2 ^ (i + 1) else 0) < 2 ^ n := by
      split
      · exact Nat.pow_lt_pow_right (by decide) hi
      · exact Nat.two_pow_pos n
    rw [mod_two_pow_succ_eq_xor u (i + 1), iterate_pnNext_xor hn k hbit hlow, ← ih (by omega), pnCombine_succ, hite,
      ← Function.iterate_succ_apply' (pnNext n gpoly), Function.iterate_succ_apply, pnNext_two_pow]

/-- What `k` steps leave of a state, from what they leave of the conventional seed. -/
theorem pnCombine_seed (hn : 1 ≤ n) {u : Nat} (hu : u < 2 ^ n) (k : Nat) :
    pnCombine n gpoly u (n - 1) ((pnNext n gpoly)^[k] (2 ^ (n - 1))) = (pnNext n gpoly)^[k] u := by
  rw [pnCombine_iterate hn u k (by omega), Nat.sub_add_cancel hn, Nat.mod_eq_of_lt hu]

theorem iterate_pnNext_lt (hr : r < 2 ^ n) (k : Nat) : (pnNext n gpoly)^[k] r < 2 ^ n :=
  Function.Iterate.rec (· < 2 ^ n) hr (fun _ => pnNext_lt) k

theorem conventionalSeed_lt (hn : 1 ≤ n) : 2 ^ (n - 1) < 2 ^ n := Nat.pow_lt_pow_right (by decide) (by omega)

/-- What `k` steps leave of the conventional seed `2^(n-1)` (R235), for a `k` of at most `bits` bits, by squaring. -/
def pnPower (n gpoly : Nat) : Nat → Nat → Nat
  | 0, _ => 2 ^ (n - 1)
  | bits + 1, k =>
    let half := pnPower n gpoly bits (k / 2)
    let even := pnCombine n gpoly half (n - 1) half
    if k % 2 = 1 then pnNext n gpoly even else even

theorem pnPower_eq (hn : 1 ≤ n) {bits k : Nat} (hk : k < 2 ^ bits) :
    pnPower n gpoly bits k = (pnNext n gpoly)^[k] (2 ^ (n - 1)) := by
  induction bits generalizing k with
  | zero => rw [Nat.lt_one_iff.mp hk, pnPower, Function.iterate_zero_apply]
  | succ bits ih =>
    simp only [pnPower]
    rw [ih (k := k / 2) (by omega), pnCombine_seed hn (iterate_pnNext_lt (conventionalSeed_lt hn) _),
      ← Function.iterate_add_apply, ← Function.iterate_succ_apply' (pnNext n gpoly)]
    split
    · rw [show (k / 2 + k / 2).succ = k by omega]
    · rw [show k / 2 + k / 2 = k by omega]

end

/-! ## The period law (R232, R239) -/

/-- A period that is a product of primes is the least one when it is no longer a period with one of them left out. -/
theorem minimalPeriod_eq_prod {α : Type} {f : α → α} {x : α} {primes : List Nat} (hp : ∀ p ∈ primes, p.Prime)
    (hper : Function.IsPeriodicPt f primes.prod x)
    (hdiv : ∀ p ∈ primes, ¬ Function.IsPeriodicPt f (primes.prod / p) x) :
    Function.minimalPeriod f x = primes.prod := by
  obtain ⟨c, hc⟩ := hper.minimalPeriod_dvd
  by_contra hne
  obtain ⟨p, hprime, d, rfl⟩ := Nat.exists_prime_and_dvd (n := c) (by rintro rfl; omega)
  have hprod : primes.prod = p * (Function.minimalPeriod f x * d) := by rw [hc, Nat.mul_left_comm]
  have hmem : p ∈ primes :=
    mem_list_primes_of_dvd_prod hprime.prime (fun q hq => (hp q hq).prime) ⟨_, hprod⟩
  refine hdiv p hmem (Function.isPeriodicPt_iff_minimalPeriod_dvd.mpr ⟨d, ?_⟩)
  rw [hprod, Nat.mul_div_cancel_left _ hprime.pos]

/-- The prime factors of `2^n - 1`, for each width of R230. -/
def periodPrimes : Nat → List Nat
  | 3 => [7]
  | 4 => [3, 5]
  | 5 => [31]
  | 6 => [3, 3, 7]
  | 7 => [127]
  | 8 => [3, 5, 17]
  | 10 => [3, 11, 31]
  | 12 => [3, 3, 5, 7, 13]
  | _ => []

theorem periodPrimes_spec : ∀ n ∈ [3, 4, 5, 6, 7, 8, 10, 12],
    1 ≤ n ∧ (periodPrimes n).prod = 2 ^ n - 1 ∧ ∀ p ∈ periodPrimes n, p.Prime := by
  decide

/-- The one fact about the default polynomials (R232): the conventional seed is back after `2^n - 1` steps, and not
after that many divided by a prime. -/
theorem pnPower_defaultGpoly : ∀ n ∈ [3, 4, 5, 6, 7, 8, 10, 12],
    pnPower n (defaultGpoly n) n (2 ^ n - 1) = 2 ^ (n - 1) ∧
    ∀ p ∈ periodPrimes n, pnPower n (defaultGpoly n) n ((2 ^ n - 1) / p) ≠ 2 ^ (n - 1) := by
  decide

theorem minimalPeriod_seed {n : Nat} (hw : n ∈ [3, 4, 5, 6, 7, 8, 10, 12]) :
    Function.minimalPeriod (pnNext n (defaultGpoly n)) (2 ^ (n - 1)) = 2 ^ n - 1 := by
  obtain ⟨hn, hprod, hprimes⟩ := periodPrimes_spec n hw
  obtain ⟨hback, hearlier⟩ := pnPower_defaultGpoly n hw
  have hfits {k : Nat} (hk : k ≤ 2 ^ n - 1) : k < 2 ^ n := Nat.lt_of_le_pred (Nat.two_pow_pos n) hk
  have hper : Function.IsPeriodicPt (pnNext n (defaultGpoly n)) (2 ^ n - 1) (2 ^ (n - 1)) :=
    (pnPower_eq hn (hfits le_rfl)).symm.trans hback
  rw [← hprod] at hper hearlier hfits ⊢
  exact minimalPeriod_eq_prod hprimes hper fun p hp h =>
    hearlier p hp ((pnPower_eq hn (hfits (Nat.div_le_self _ p))).trans h)

section

variable {n gpoly s r : Nat}

/-- The distinct states of a maximal cycle are all the states. -/
theorem exists_iterate_of_maximal (hn : 1 ≤ n) (hs : s ∈ pnStates n)
    (hmax : Function.minimalPeriod (pnNext n gpoly) s = 2 ^ n - 1) (hr : r ∈ pnStates n) :
    ∃ k, k < 2 ^ n - 1 ∧ (pnNext n gpoly)^[k] s = r := by
  have hmaps : Set.MapsTo ((pnNext n gpoly)^[·] s) (Finset.range (2 ^ n - 1)) (pnStates n) := fun k _ =>
    Function.Iterate.rec (· ∈ pnStates n) hs (fun _ => pnNext_mem_pnStates hn) k
  have hinj : Set.InjOn ((pnNext n gpoly)^[·] s) (Finset.range (2 ^ n - 1)) := by
    rw [Finset.coe_range, ← hmax]
    exact Function.iterate_injOn_Iio_minimalPeriod
  have hcard : (pnStates n).card ≤ (Finset.range (2 ^ n - 1)).card := by rw [card_pnStates, Finset.card_range]
  obtain ⟨k, hk, h⟩ := Finset.surjOn_of_injOn_of_card_le _ hmaps hinj hcard hr
  exact ⟨k, Finset.mem_range.mp hk, h⟩

/-- When one state lies on a maximal cycle, every state does, the cycle being the same. -/
theorem minimalPeriod_eq_of_maximal (hn : 1 ≤ n) (hs : s ∈ pnStates n)
    (hmax : Function.minimalPeriod (pnNext n gpoly) s = 2 ^ n - 1) (hr : r ∈ pnStates n) :
    Function.minimalPeriod (pnNext n gpoly) r = 2 ^ n - 1 := by
  obtain ⟨k, _, rfl⟩ := exists_iterate_of_maximal hn hs hmax hr
  rw [Function.minimalPeriod_apply_iterate, hmax]
  exact Function.minimalPeriod_pos_iff_mem_periodicPts.mp (minimalPeriod_pnNext_bounds hn hs).1

end

/-- Settles O45: the cycle of the conventional seed is maximal, and every seed lies on it. -/
theorem pnPeriodIsMaximal : Obligations.PnPeriodIsMaximal := by
  intro n hw seed h0 hlt
  obtain ⟨hn, _⟩ := periodPrimes_spec n hw
  have hseed := mem_pnStates.mpr ⟨h0, hlt⟩
  have hmax := minimalPeriod_eq_of_maximal hn (mem_pnStates.mpr ⟨Nat.two_pow_pos _, conventionalSeed_lt hn⟩)
    (minimalPeriod_seed hw) hseed
  simp only [pnIterate_eq_iterate]
  refine ⟨hmax ▸ Function.iterate_minimalPeriod, fun r hr0 hr => ?_⟩
  obtain ⟨k, hk, h⟩ := exists_iterate_of_maximal hn hseed hmax (mem_pnStates.mpr ⟨hr0, hr⟩)
  refine ⟨k, ⟨hk, h⟩, fun j ⟨hj, hj'⟩ => ?_⟩
  exact (Function.iterate_eq_iterate_iff_of_lt_minimalPeriod (hmax ▸ hj) (hmax ▸ hk)).mp (hj'.trans h.symm)

end Sys2Proof.Machine
end

section
/-! PROOFS. The orchestrator's commands but `BEACON_SERVICE` (R251 to R258, R262): `BEACON_START` stage by stage, the
stop action after each end of the transition to Ready, and what `BEACON_STATUS` reads. -/

namespace Sys2Proof.Machine

/-! ## The operand of BEACON_START (R102, R252) -/

/-- An operand byte is the code of the mode it names (R102). -/
theorem Mode.code_of_ofOperand {b : Byte} {m : Mode} (h : Mode.ofOperand b = some m) :
    m.code.setWidth 16 = b.setWidth 16 := by
  unfold Mode.ofOperand at h
  split at h <;> cases h <;> rfl

/-- The operands that name a mode are 1 to 7 (R102). -/
theorem Mode.ofOperand_eq_none_iff (b : Byte) : Mode.ofOperand b = none ↔ b = 0#8 ∨ 7 < b.toNat := by
  revert b
  decide

theorem exec_beaconStart_illegal {b : Byte} (hb : Mode.ofOperand b = none) (s : State) :
    exec (.beaconStart b) s = answer (.illegalOperand, s) := by
  simp only [exec, execBeaconStart, hb]

theorem exec_beaconStart_running {b : Byte} {m : Mode} (hb : Mode.ofOperand b = some m) {s : State}
    (hrun : s.beacon.mode ≠ .off) : exec (.beaconStart b) s = answer (⟨.illegalOperand, 1#16⟩, s) := by
  simp only [exec, execBeaconStart, hb, hrun, if_false]

theorem exec_beaconStart_off {b : Byte} {m : Mode} (hb : Mode.ofOperand b = some m) {s : State}
    (hoff : s.beacon.mode = .off) : exec (.beaconStart b) s = answer (startMode m s) := by
  simp only [exec, execBeaconStart, hb, hoff, if_true]

/-- Settles O48: the operand check comes first, then the check of the mode. -/
theorem beaconStartRefusals : Obligations.BeaconStartRefusals := by
  refine fun s b => ⟨fun hb => ?_, fun h0 h7 hrun => ?_⟩
  · exact exec_beaconStart_illegal ((Mode.ofOperand_eq_none_iff b).mpr hb) s
  · cases hm : Mode.ofOperand b with
    | none => exact ((Mode.ofOperand_eq_none_iff b).mp hm).elim (absurd · h0) (absurd · (Nat.not_lt.mpr h7))
    | some m => exact exec_beaconStart_running hm hrun

/-! ## Timer readings (R252, log 7) -/

theorem timerNow_lt (s : State) : s.timerNow < 2 ^ s.params.timerW := Nat.mod_lt _ (Nat.two_pow_pos _)

theorem timerNow_of_timerReads {s : State} {x : Nat} {l : List Nat} (h : s.env.timerReads = x :: l) :
    s.timerNow = x % 2 ^ s.params.timerW := by
  simp only [State.timerNow, h, truncW]

/-! ## The registers' part of BEACON_START (R252) -/

/-- Channel B is armed, with one timer reading, unless it is already enabled. -/
theorem startChannelB_eq (s : State) : startChannelB s = { s with
    beacon := { s.beacon with
      ccrB := if hasSource s.beacon.ie .cmpB then s.beacon.ccrB else addW s.params.timerW s.timerNow s.params.unitPeriod
      ie := if hasSource s.beacon.ie .cmpB then s.beacon.ie else setSource s.beacon.ie .cmpB true }
    trace := s.trace ++ if hasSource s.beacon.ie .cmpB then []
      else [.ccr .b (addW s.params.timerW s.timerNow s.params.unitPeriod)]
    env := { s.env with
      timerReads := if hasSource s.beacon.ie .cmpB then s.env.timerReads else s.env.timerReads.tail } } := by
  cases h : hasSource s.beacon.ie .cmpB with
  | true => simp [startChannelB, h]
  | false =>
    simp only [startChannelB, h, Bool.false_eq_true, if_false]
    rfl

/-- Channel A is armed, with one timer reading, in the modes that tick on it. -/
theorem startChannelA_eq (m : Mode) (s : State) : startChannelA m s = { s with
    beacon := { s.beacon with
      ccrA := if m.ticksOnA then addW s.params.timerW s.timerNow s.params.tickPeriod else s.beacon.ccrA
      ie := if m.ticksOnA then setSource s.beacon.ie .cmpA true else s.beacon.ie }
    trace := s.trace ++ if m.ticksOnA then [.ccr .a (addW s.params.timerW s.timerNow s.params.tickPeriod)] else []
    env := { s.env with timerReads := if m.ticksOnA then s.env.timerReads.tail else s.env.timerReads } } := by
  cases h : m.ticksOnA with
  | false => simp [startChannelA, h]
  | true =>
    simp only [startChannelA, h, if_true]
    rfl

/-- The registers' part of `BEACON_START`, which follows the radio's (R252). -/
def startRegisters (m : Mode) (u : State) : State := startEnable m (startChannelA m (startChannelB (startClear u)))

section

variable (m : Mode) (u : State)

/-- The reading channel B is armed from. -/
def startNowB : Nat := (startClear u).timerNow

/-- The reading channel A is armed from. -/
def startNowA : Nat := (startChannelB (startClear u)).timerNow

theorem startNowB_lt : startNowB u < 2 ^ u.params.timerW := timerNow_lt (startClear u)

theorem startChannelB_startClear_params : (startChannelB (startClear u)).params = u.params := by
  rw [startChannelB_eq]
  rfl

theorem startNowA_lt : startNowA u < 2 ^ u.params.timerW := by
  rw [← startChannelB_startClear_params]
  exact timerNow_lt _

/-- The first reading in store is channel B's. -/
theorem startNowB_of_timerReads {x : Nat} {l : List Nat} (h : u.env.timerReads = x :: l) :
    startNowB u = x % 2 ^ u.params.timerW := timerNow_of_timerReads (s := startClear u) h

/-- Channel A takes the next reading in store, which is the first one when channel B needs none. -/
theorem startNowA_of_timerReads {x y : Nat} {l : List Nat} (h : u.env.timerReads = x :: y :: l) :
    startNowA u = (if hasSource u.beacon.ie .cmpB then x else y) % 2 ^ u.params.timerW := by
  have hreads : (startChannelB (startClear u)).env.timerReads =
      (if hasSource u.beacon.ie .cmpB then x else y) :: if hasSource u.beacon.ie .cmpB then y :: l else l := by
    rw [startChannelB_eq, startClear_eq]
    simp only [h, List.tail_cons]
    split <;> rfl
  rw [startNowA, timerNow_of_timerReads hreads, startChannelB_startClear_params]

theorem startRegisters_started : Started m u (startRegisters m u) := started m u

/-- After `startClear` nothing touches the pin, the key, the wall clock and the pending bits. -/
theorem startRegisters_cleared :
    (startRegisters m u).beacon.dataPin = false ∧ (startRegisters m u).beacon.lastKey = false ∧
      (startRegisters m u).beacon.wallclock = u.beacon.wallclock ∧
      (startRegisters m u).beacon.ip = u.beacon.ip &&& 0b0010#4 := by
  rw [startRegisters, startChannelA_eq, startChannelB_eq, startClear_eq]
  exact ⟨rfl, rfl, rfl, rfl⟩

/-- Of the pending bits only channel B's is left. -/
theorem startRegisters_pending (x : Source) :
    hasSource (startRegisters m u).beacon.ip x = (hasSource u.beacon.ip x && decide (x = .cmpB)) := by
  obtain ⟨_, _, _, hip⟩ := startRegisters_cleared m u
  rw [hip, hasSource_stop_mask]

theorem startRegisters_ccrB : (startRegisters m u).beacon.ccrB =
    if hasSource u.beacon.ie .cmpB then u.beacon.ccrB
    else addW u.params.timerW (startNowB u) u.params.unitPeriod := by
  rw [startRegisters, startChannelA_eq, startChannelB_eq]
  rfl

theorem startRegisters_ccrA : (startRegisters m u).beacon.ccrA =
    if m.ticksOnA then addW u.params.timerW (startNowA u) u.params.tickPeriod else u.beacon.ccrA := by
  rw [startRegisters, startChannelA_eq, startNowA, startChannelB_eq]
  rfl

/-- The events, in the order of the actions (R252). -/
theorem startRegisters_trace : (startRegisters m u).trace = u.trace ++ [.pin .data false] ++
    (if hasSource u.beacon.ie .cmpB then [] else [.ccr .b (startRegisters m u).beacon.ccrB]) ++
    (if m.ticksOnA then [.ccr .a (startRegisters m u).beacon.ccrA] else []) := by
  have hevents : (startRegisters m u).trace = u.trace ++ [.pin .data false] ++
      (if hasSource u.beacon.ie .cmpB then []
        else [.ccr .b (addW u.params.timerW (startNowB u) u.params.unitPeriod)]) ++
      (if m.ticksOnA then [.ccr .a (addW u.params.timerW (startNowA u) u.params.tickPeriod)] else []) := by
    rw [startRegisters, startChannelA_eq, startNowA, startChannelB_eq]
    rfl
  rw [hevents, startRegisters_ccrA, startRegisters_ccrB]
  split <;> split <;> rfl

end

/-! ## The radio's part of BEACON_START (R251, R252) -/

section

variable (m : Mode) (s : State)

/-- The state the radio's part leaves on a bus that answers. -/
def startRadio : State :=
  if m.setsXmitDirect then
    ((s.dropAnswers (transitionList s.params s.radioState .xmitDirect).length).log
      (writeEvents (transitionList s.params s.radioState .xmitDirect))).setRadioState .xmitDirect
  else s

/-- The radio is set in the modes that need it; only the bus and the trace move besides. -/
theorem startRadio_eq : startRadio m s = { s with
    radioState := if m.setsXmitDirect then .xmitDirect else s.radioState
    trace := s.trace ++
      if m.setsXmitDirect then writeEvents (transitionList s.params s.radioState .xmitDirect) else []
    env := { s.env with answers := (startRadio m s).env.answers } } := by
  unfold startRadio
  split
  · rfl
  · simp

@[simp] theorem startRadio_params : (startRadio m s).params = s.params := by rw [startRadio_eq]

@[simp] theorem startRadio_beacon : (startRadio m s).beacon = s.beacon := by rw [startRadio_eq]

@[simp] theorem startRadio_timerReads : (startRadio m s).env.timerReads = s.env.timerReads := by rw [startRadio_eq]

theorem startRadio_trace : (startRadio m s).trace = s.trace ++
    if m.setsXmitDirect then writeEvents (transitionList s.params s.radioState .xmitDirect) else [] := by
  rw [startRadio_eq]

/-- What the two parts leave unchanged (R252). -/
theorem startRegisters_startRadio_frame : startRegisters m (startRadio m s) = { s with
    radioState := if m.setsXmitDirect then .xmitDirect else s.radioState
    beacon := (startRegisters m (startRadio m s)).beacon
    trace := (startRegisters m (startRadio m s)).trace
    env := { s.env with
      answers := (startRegisters m (startRadio m s)).env.answers
      timerReads := (startRegisters m (startRadio m s)).env.timerReads } } := by
  have hregisters := (startRegisters_started m (startRadio m s)).frame
  generalize startRegisters m (startRadio m s) = v at hregisters ⊢
  have hanswers : v.env.answers = (startRadio m s).env.answers := by rw [hregisters]
  rw [hanswers]
  exact hregisters.trans (by rw [startRadio_eq])

variable {m s}

theorem startMode_healthy (h : m.setsXmitDirect = true →
      s.BusHealthy (transitionList s.params s.radioState .xmitDirect).length) :
    startMode m s = (⟨.ok, m.code.setWidth 16⟩, startRegisters m (startRadio m s)) := by
  cases hm : m.setsXmitDirect with
  | false => simp [startMode, startRadio, startRegisters, hm]
  | true => simp [startMode, startRadio, startRegisters, hm, enterTarget_healthy (n := 0) (h hm), Target.state]

theorem exec_beaconStart_healthy {b : Byte} (hb : Mode.ofOperand b = some m) (hoff : s.beacon.mode = .off)
    (h : m.setsXmitDirect = true → s.BusHealthy (transitionList s.params s.radioState .xmitDirect).length) :
    exec (.beaconStart b) s = .next ((startRegisters m (startRadio m s)).finish ⟨.ok, b.setWidth 16⟩) := by
  rw [exec_beaconStart_off hb hoff, startMode_healthy h, Mode.code_of_ofOperand hb]
  rfl

end

/-- Settles O47: the radio's part, then the registers' part, of which `Started` gives the enables and the mode. -/
theorem beaconStartArmsTheMode : Obligations.BeaconStartArmsTheMode := by
  intro s b m hb hoff hbus
  let u := startRadio m s
  have hstarted := startRegisters_started m u
  obtain ⟨hpin, hkey, hclock, _⟩ := startRegisters_cleared m u
  have hnowA := startNowA_lt u
  have hnowB := startNowB_lt u
  have hreadB {x l} := startNowB_of_timerReads u (x := x) (l := l)
  have hreadA {x y l} := startNowA_of_timerReads u (x := x) (y := y) (l := l)
  have hflags := hstarted.flags
  have hcmpA := hstarted.cmpA
  have htxclk := hstarted.txclk
  have hpending := startRegisters_pending m u
  have hccrB := startRegisters_ccrB m u
  have hccrA := startRegisters_ccrA m u
  have htrace := startRegisters_trace m u
  simp only [u, startRadio_params, startRadio_beacon, startRadio_timerReads, startRadio_trace]
    at hclock hnowA hnowB hreadB hreadA hflags hcmpA htxclk hpending hccrB hccrA htrace
  refine ⟨_, startNowA u, startNowB u, exec_beaconStart_healthy hb hoff hbus, hnowA, hnowB,
    fun x l h _ => hreadB h, fun x y l h => hreadA h, ?_, hstarted.mode, hpin, hkey, hstarted.tone, hclock, hflags,
    hcmpA, hstarted.cmpB, hstarted.nirq, htxclk, ?_, ?_, ?_, ?_, hccrB, hccrA, ?_⟩
  · exact congrArg (·.finish ⟨.ok, b.setWidth 16⟩) (startRegisters_startRadio_frame m s)
  · exact (hpending .cmpA).trans (Bool.and_false _)
  · exact (hpending .nirq).trans (Bool.and_false _)
  · exact (hpending .txclk).trans (Bool.and_false _)
  · exact (hpending .cmpB).trans (Bool.and_true _)
  · exact congrArg (· ++ [.result .ok (b.setWidth 16)]) htrace

/-! ## BEACON_STOP (R256, R258) -/

/-- The stop action answers as the transition to Ready does, and masks whatever the answer is. -/
theorem exec_beaconStop_of_enterTarget {s v : State} {r : Reply} (h : enterTarget .ready s = (r, v)) :
    exec .beaconStop s = answer (r, v.stopped) := by
  simp only [exec, execBeaconStop, stopAction, h, maskAndSilence_eq, State.stopped]

/-- The pin event of the mask and the result end the trace. -/
theorem answer_stopped (r : Reply) (v : State) : answer (r, v.stopped) = .next { v with
    beacon := { v.beacon with mode := .off, dataPin := false, ie := v.beacon.ie &&& 0b0010#4 }
    trace := v.trace ++ [.pin .data false, .result r.status r.value] } := by
  simp [answer, State.finish, State.emit, State.stopped]

/-- Settles O49: the transition to Ready ends, fails at a write or is refused; the mask follows in each case. -/
theorem beaconStopTellsTheRadioThenMasks : Obligations.BeaconStopTellsTheRadioThenMasks := by
  refine fun s => ⟨fun h => ?_, fun k h hk => ?_, fun h => ?_⟩
  · rw [exec_beaconStop_of_enterTarget (enterTarget_healthy (n := 0) h), answer_stopped]
    rfl
  · rw [exec_beaconStop_of_enterTarget (enterTarget_failsAt h hk), answer_stopped]
    rfl
  · rw [exec_beaconStop_of_enterTarget (enterTarget_faulted h .ready), answer_stopped]
    rfl

/-! ## BEACON_STATUS (R262) -/

theorem exec_beaconStatus_some {sel : Byte} {v : Half} {s : State} (h : statusValue sel s = some v) :
    exec (.beaconStatus sel) s = answer (⟨.ok, v⟩, s) := by
  simp only [exec, execBeaconStatus, h]

theorem exec_beaconStatus_none {sel : Byte} {s : State} (h : statusValue sel s = none) :
    exec (.beaconStatus sel) s = answer (.illegalOperand, s) := by
  simp only [exec, execBeaconStatus, h]

theorem statusValue_eq_none {sel : Byte} (h : 8 < sel.toNat) (s : State) : statusValue sel s = none := by
  unfold statusValue
  split
  case h_10 => rfl
  all_goals exact absurd h (by decide)

/-- Settles O51: the nine selectors one by one, and no value above them. -/
theorem beaconStatusSelectors : Obligations.BeaconStatusSelectors := by
  refine fun s => ⟨fun v sel h => ?_, fun sel h => exec_beaconStatus_none (statusValue_eq_none h s)⟩
  refine exec_beaconStatus_some (s := s) ?_
  simp only [List.mem_cons, List.not_mem_nil, or_false, Prod.mk.injEq] at h
  rcases h with ⟨rfl, rfl⟩ | ⟨rfl, rfl⟩ | ⟨rfl, rfl⟩ | ⟨rfl, rfl⟩ | ⟨rfl, rfl⟩ | ⟨rfl, rfl⟩ | ⟨rfl, rfl⟩ |
    ⟨rfl, rfl⟩ | ⟨rfl, rfl⟩ <;> rfl

end Sys2Proof.Machine
end

section
/-! PROOFS. What stops the machine: a host access outside its space, and nothing else (R40, R280; log 15). -/

namespace Sys2Proof.Machine

/-- Main's next request is a host access at an index its space does not have (R40). -/
def State.AsksAbsentAddress (s : State) : Prop :=
  ∃ sp k rest, s.params.hostSize sp ≤ k ∧
    (s.env.requests = .hostRead sp k :: rest ∨ ∃ v, s.env.requests = .hostWrite sp k v :: rest)

/-- An action taken in `s` gives a next state, or it is the stop at an absent address that `s` asks for. -/
def Action.AnswersUnlessAbsent (s : State) (a : Action) : Prop :=
  (∃ t, afterAction a = .next t) ∨ (a = .stop .noSuchAddress ∧ s.AsksAbsentAddress)

theorem Action.answersUnlessAbsent_done (s t : State) : (Action.done t).AnswersUnlessAbsent s := .inl ⟨t, rfl⟩

/-- Every command word answers, legal or not (R112, R280). -/
theorem runWord_answers (w : Word) (s : State) : ∃ t, runWord w s = .next t := by
  unfold runWord
  split
  · obtain ⟨t, ht, _⟩ := exec_effect _ s
    exact ⟨t, ht⟩
  · exact ⟨_, rfl⟩

theorem beginRequest_answersUnlessAbsent (s : State) : (beginRequest s).AnswersUnlessAbsent s := by
  unfold beginRequest
  split
  case h_1 => exact Action.answersUnlessAbsent_done s s
  case h_2 w _ _ => exact .inl (runWord_answers w s.dropRequest)
  case h_3 sp k v rest hr =>
    split
    · exact Action.answersUnlessAbsent_done s _
    · next hk => exact .inr ⟨rfl, sp, k, rest, Nat.not_lt.mp hk, .inr ⟨v, hr⟩⟩
  case h_4 sp k rest hr =>
    split
    · exact Action.answersUnlessAbsent_done s _
    · next hk => exact .inr ⟨rfl, sp, k, rest, Nat.not_lt.mp hk, .inl hr⟩

theorem mainAction_answersUnlessAbsent (s : State) : (mainAction s).AnswersUnlessAbsent s := by
  unfold mainAction
  split
  · exact Action.answersUnlessAbsent_done s _
  · split
    · exact Action.answersUnlessAbsent_done s _
    · exact beginRequest_answersUnlessAbsent s
    · exact beginRequest_answersUnlessAbsent s

theorem hostAction_answersUnlessAbsent (s : State) : (hostAction s).AnswersUnlessAbsent s := by
  unfold hostAction
  split
  · exact beginRequest_answersUnlessAbsent s
  · exact beginRequest_answersUnlessAbsent s
  · exact mainAction_answersUnlessAbsent s
  · exact mainAction_answersUnlessAbsent s

theorem afterInterrupts_answersUnlessAbsent {main : State → Action} {s : State}
    (hmain : (main s).AnswersUnlessAbsent s) : (afterInterrupts main s).AnswersUnlessAbsent s := by
  unfold afterInterrupts
  split
  · exact Action.answersUnlessAbsent_done s _
  · exact hmain

/-- Taking a turn from the list leaves the configuration and Main's requests, so `s` asks for what `s.dropTurn` does. -/
theorem nextAction_answersUnlessAbsent (s : State) : (nextAction s).AnswersUnlessAbsent s := by
  unfold nextAction
  split
  · exact Action.answersUnlessAbsent_done s _
  · exact Action.answersUnlessAbsent_done s _
  · exact afterInterrupts_answersUnlessAbsent (mainAction_answersUnlessAbsent s.dropTurn)
  · exact afterInterrupts_answersUnlessAbsent (hostAction_answersUnlessAbsent s.dropTurn)
  · exact afterInterrupts_answersUnlessAbsent (mainAction_answersUnlessAbsent s)

/-- Settles O6: the next action answers, or is the stop at an absent address. -/
theorem stepStopsOnlyAtAbsentAddress : Obligations.StepStopsOnlyAtAbsentAddress := by
  intro s
  rw [step_eq]
  rcases nextAction_answersUnlessAbsent s with ⟨t, ht⟩ | ⟨hstop, habsent⟩
  · rw [ht]
    exact ⟨nofun, nofun⟩
  · rw [hstop]
    exact ⟨nofun, fun _ _ => habsent⟩

end Sys2Proof.Machine
end

section
/-! PROOFS. Arrival and delivery of interrupts, and the handlers of CMP_B and TXCLK (R291, R292, R296, R300, R302). -/

namespace Sys2Proof.Machine

/-! ## Arrival (R291) -/

/-- An arrival writes the pending bits and the flags only. -/
theorem Beacon.arrive_eq (b : Beacon) (x : Source) : b.arrive x = { b with
    ip := setSource b.ip x true
    flags := if hasSource b.ip x = true ∧ hasSource b.ie x = true then b.flags ||| 0x08#8 else b.flags } := by
  by_cases h : hasSource b.ip x = true ∧ hasSource b.ie x = true <;>
    simp [Beacon.arrive, Beacon.deliverable, Beacon.raise, flagTickOverrun, h]

theorem hasSource_setSource_true (r : BitVec 4) (x y : Source) :
    hasSource (setSource r x true) y = (hasSource r y || decide (y = x)) := by
  rw [hasSource_setSource]
  by_cases h : y = x <;> simp [h]

/-- An arrival is one step, in the state with its turn taken. -/
theorem step_of_event {s : State} {x : Source} {turns : List Turn} (ht : s.env.turns = .event x :: turns) :
    step s = .next (State.arrive { s with env := { s.env with turns := turns } } x) := by
  simp only [step_eq, nextAction, ht, afterAction, dropTurn_of_turns ht]

/-- Settles O52: the step is the arrival, and an arrival writes two fields. -/
theorem arrivalLatchesThePendingBit : Obligations.ArrivalLatchesThePendingBit := by
  intro s x turns ht
  have hbeacon := Beacon.arrive_eq s.beacon x
  refine ⟨_, step_of_event ht, ?_, fun y => ?_, ?_⟩
  · rw [State.arrive_beacon, hbeacon, State.arrive, hbeacon]
    rfl
  · rw [State.arrive_beacon, hbeacon]
    exact hasSource_setSource_true s.beacon.ip x y
  · rw [State.arrive_beacon, hbeacon]

/-! ## Delivery (R292, R296) -/

theorem Beacon.deliverable_iff {b : Beacon} {x : Source} :
    b.deliverable x = true ↔ hasSource b.ip x = true ∧ hasSource b.ie x = true := Bool.and_eq_true_iff

/-- A legal `IRQ_ORDER` names every source (R8). -/
theorem mem_of_irqOrderLegal {l : List Source} (h : irqOrderLegal l = true) (x : Source) : x ∈ l := by
  have hall : ∀ y ∈ [Source.cmpA, .cmpB, .nirq, .txclk], y ∈ l := by
    simpa [irqOrderLegal] using (Bool.and_eq_true_iff.mp h).2
  exact hall x (by cases x <;> decide)

/-- What is served is deliverable (R292). -/
theorem deliverable_of_nextInterrupt {s : State} {y : Source} (h : s.nextInterrupt = some y) :
    s.beacon.deliverable y = true := List.find?_some h

/-- With a legal order, no deliverable source is passed over for Main (R292). -/
theorem nextInterrupt_of_deliverable {s : State} {x : Source} (horder : irqOrderLegal s.params.irqOrder = true)
    (hx : s.beacon.deliverable x = true) : ∃ y, s.nextInterrupt = some y :=
  Option.isSome_iff_exists.mp (List.find?_isSome.mpr ⟨x, mem_of_irqOrderLegal horder x, hx⟩)

/-- The served source's handler is the whole step; the entry writes the pending bit and the trace (R296). -/
theorem step_of_nextInterrupt {s : State} {y : Source} (ht : s.env.turns = []) (hy : s.nextInterrupt = some y) :
    step s = .next (handlerBody y { s with
      beacon := { s.beacon with ip := setSource s.beacon.ip y false }
      trace := s.trace ++ [.irq y] }) := by
  rw [step_eq, nextAction_of_no_turns ht]
  simp only [afterInterrupts, hy, afterAction]
  rfl

/-- Settles O53: with a legal order some deliverable source is found, and the step serves the one found. -/
theorem deliverableSourceIsServedFirst : Obligations.DeliverableSourceIsServedFirst := by
  rintro s horder ht ⟨x, hx⟩
  obtain ⟨y, hy⟩ := nextInterrupt_of_deliverable horder (Beacon.deliverable_iff.mpr hx)
  obtain ⟨hpending, henabled⟩ := Beacon.deliverable_iff.mp (deliverable_of_nextInterrupt hy)
  refine ⟨y, hpending, henabled, step_of_nextInterrupt ht hy, ?_, fun z hz => ?_⟩
  · rw [hasSource_setSource, if_pos rfl]
  · rw [hasSource_setSource, if_neg hz]

/-! ## The wall clock and the tone (R300, R302) -/

theorem handlerTxclk_toggles {s : State} (hm : s.beacon.mode = .tone)
    (hdiv : (s.beacon.toneCount + 1#16).toNat = s.params.toneDiv) :
    handlerTxclk s = (s.setBeacon { s.beacon with toneCount := 0#16 }).driveData (!s.beacon.dataPin) := by
  simp only [handlerTxclk, hm, hdiv, if_true]

theorem handlerTxclk_counts {s : State} (hm : s.beacon.mode = .tone)
    (hdiv : (s.beacon.toneCount + 1#16).toNat ≠ s.params.toneDiv) :
    handlerTxclk s = s.setBeacon { s.beacon with toneCount := s.beacon.toneCount + 1#16 } := by
  simp only [handlerTxclk, hm, hdiv, if_true, if_false]

theorem handlerTxclk_of_not_tone {s : State} (hm : s.beacon.mode ≠ .tone) : handlerTxclk s = s := by
  simp only [handlerTxclk, hm, if_false]

/-- Settles O56: the CMP_B handler has one case, the TXCLK handler the three above. -/
theorem wallClockAndToneHandlers : Obligations.WallClockAndToneHandlers := fun _ =>
  ⟨rfl, handlerTxclk_toggles, handlerTxclk_counts, handlerTxclk_of_not_tone⟩

end Sys2Proof.Machine
end
